-- ==== Sys2Proof/Word.lean ====
section
/-! DEFINITION. The word types: a byte and a logical address (R10, R12: data 8 bits, logical address 16 bits). -/

namespace Sys2Proof

/-- A data byte, bits 7 to 0 (R12). -/
abbrev Byte := BitVec 8

/-- A logical address, bits 15 to 0 (R12, R80). -/
abbrev Addr := BitVec 16

end Sys2Proof
end

