-- ==== Sys2Proof/Config.lean ====
section
/-! DEFINITION. The parameters of R10 as plain data: what `init` loads and no later step but another `init` changes. -/

namespace Sys2Proof

/-- `VARIANT` (R10, D1). -/
inductive Variant where
  | nmos6502
  | c65c02
  | r65c02
  | w65c02s
  deriving DecidableEq, Repr

/-- `INVALID_POLICY` (R10, R441): what an opcode outside the table does. -/
inductive InvalidPolicy where
  | strict
  | lenient
  deriving DecidableEq, Repr

/-- The kind of a bus access (R82). An instruction-stream fetch has kind `read`. -/
inductive AccessKind where
  | read
  | write
  deriving DecidableEq, Repr

/-- The soft-switch state `SW` (R38): opaque to the core, here the machine's flags as the bits of a number of any size.
DESIGN CHOICE (log entry 2): the spec leaves the type to the machine. -/
abbrev SwitchState := Nat

/-- The six stored flags of `P` (R33). -/
structure Flags where
  n : Bool
  v : Bool
  d : Bool
  i : Bool
  z : Bool
  c : Bool
  deriving DecidableEq, Repr

/-- When a row of a machine table applies: the kind of access (`none`: both), an inclusive address range,
and the soft-switch bits it asks for. -/
structure Guard where
  kind : Option AccessKind
  first : Addr
  last : Addr
  swMask : SwitchState
  swBits : SwitchState
  deriving DecidableEq, Repr

/-- One row of the bank decision table `BANK_MAP` (R82): the bank-base offset of the accesses it applies to. -/
structure BankRow where
  guard : Guard
  offset : Nat
  deriving DecidableEq, Repr

/-- One row of the soft-switch decode table `SWITCH_DECODE` (R87): on an access it applies to, whose byte has the
bits asked for, the switches become `(SW and keep) xor flip`. -/
structure SwitchRow where
  guard : Guard
  valueMask : Byte
  valueBits : Byte
  keep : SwitchState
  flip : SwitchState
  deriving DecidableEq, Repr

/-- `RESET_REGS` (R10, D4): the register values a cold reset loads. -/
structure ResetRegs where
  a : Byte
  x : Byte
  y : Byte
  sp : Byte
  p : Flags
  deriving DecidableEq, Repr

/-- The payload of an initial memory chunk (R486, R525): raw bytes or a string of hexadecimal digits.
DESIGN CHOICE (log entry 21): the string as its characters. -/
inductive Payload where
  | bytes (content : List Byte)
  | hex (digits : List Char)
  deriving DecidableEq, Repr

/-- An initial memory chunk `(bank, addr, payload)` (R525). -/
structure Chunk where
  bank : Nat
  addr : Addr
  payload : Payload
  deriving DecidableEq, Repr

/-- A non-negative rational number, for the speed multiplier and the host's tick length (R44, R492).
DESIGN CHOICE (log entry 22). -/
structure Ratio where
  num : Nat
  den : Nat
  deriving DecidableEq, Repr

/-- The machine configuration (R10, R486). -/
structure Config where
  /-- The machine's name (R486). -/
  name : String
  variant : Variant
  invalidPolicy : InvalidPolicy
  /-- `MEM_SIZE`, bytes of physical memory (R81). -/
  memSize : Nat
  /-- `BANK_COUNT`. -/
  bankCount : Nat
  /-- `BANK_BASE`: entry `b` is the base of bank `b`; a bank with no entry has the default `b * 0x10000` (D7). -/
  bankBase : List Nat
  /-- `BANK_MAP`: the first row that applies gives the offset (R82, D5). -/
  bankMap : List BankRow
  /-- The offset of `BANK_MAP` where no row applies. -/
  bankDefault : Nat
  /-- `BANK_OFFSETS`: the registered banks, every offset `BANK_MAP` can return (D9). -/
  bankOffsets : List Nat
  /-- `SWITCH_DEFAULT` (R90). -/
  switchDefault : SwitchState
  /-- `SWITCH_DECODE`: the first row that applies updates the switches; none: unchanged (R87, D6). -/
  switchDecode : List SwitchRow
  /-- `INIT_CHUNKS` (R525). -/
  chunks : List Chunk
  /-- `INIT_FILL`: the byte every physical address no chunk covers holds (R47, D7). -/
  initFill : Byte
  resetRegs : ResetRegs
  /-- `BP_BANK_EXACT` (D10). -/
  bpBankExact : Bool
  /-- `BREAK_ON_BRK` (D19). -/
  breakOnBrk : Bool
  /-- `CLOCK_HZ` (D30). -/
  clockHz : Nat
  /-- `RESYNC_WINDOW` (D37). -/
  resyncWindow : Nat
  deriving DecidableEq, Repr

/-- The default `RESET_REGS` of R10 and R46.
DESIGN CHOICE (log entry 3): the source gives none; these are the spec's. -/
def ResetRegs.standard : ResetRegs where
  a := 0x00
  x := 0x00
  y := 0x00
  sp := 0xFD
  p := { n := false, v := false, d := false, i := true, z := false, c := false }

/-- The configuration of `State.reset`: every default of R10, and where R10 gives none the machine that
95_test_vectors.md uses (one bank, `MEM_SIZE = 0x10000`, `BANK_MAP = 0`), with no soft switch.
DESIGN CHOICE (log entry 1) for the name, sizes, tables and `CLOCK_HZ`, which the spec leaves to the machine. -/
def Config.standard : Config where
  name := "standard"
  variant := .w65c02s
  invalidPolicy := .strict
  memSize := 0x10000
  bankCount := 1
  bankBase := []
  bankMap := []
  bankDefault := 0
  bankOffsets := [0]
  switchDefault := 0
  switchDecode := []
  chunks := []
  initFill := 0x00
  resetRegs := ResetRegs.standard
  bpBankExact := true
  breakOnBrk := false
  clockHz := 1000000
  resyncWindow := 12

end Sys2Proof
end

