-- ==== Sys2Proof/Machine/Bits.lean ====
section
/-! DEFINITION. The bit-field, extension and byte-order helpers of R12 and R13. -/

namespace Sys2Proof

/-- `lo(a) = a[7:0]` (R12). -/
def lo (a : Addr) : Byte := a.setWidth 8

/-- `hi(a) = page(a) = a[15:8]` (R12). -/
def hi (a : Addr) : Byte := (a >>> 8).setWidth 8

/-- `page(a) = a[15:8]` (R12). -/
def page (a : Addr) : Byte := hi a

/-- Is the page of `b` another one than the page of `a`? (R174, R175) -/
def crosses (a b : Addr) : Bool := page a != page b

/-- The 16-bit value `{h, l}`, `h` the high byte (R12, R92). -/
def word16 (h l : Byte) : Addr := h ++ l

/-- `zext_16(b)` (R13). -/
def zext16 (b : Byte) : Addr := b.setWidth 16

/-- `sext_16(b)`: the byte read as two's complement, as a 16-bit value (R13, R136). -/
def sext16 (b : Byte) : Addr := b.signExtend 16

/-- `s8(b)`: the signed reading of a byte, -128 to 127 (R13). -/
def s8 (b : Byte) : Int := b.toInt

/-- A flag as the number 0 or 1 (R13, `bool`). -/
def bit (b : Bool) : Nat := b.toNat

/-- The byte with only bit `n` set. -/
def bitMask (n : Nat) : Byte := 1#8 <<< n

end Sys2Proof
end

