-- ==== Sys2Proof/Syntax.lean ====
section
/-! DEFINITION. The instructions: one constructor for each row of spec/opcode_table.json, with the row's operand
bytes put together as R131, R134, R135 and R136 say: an immediate or offset byte, a page-zero address byte, or a 16-bit
address. The operand forms and the mnemonics as types of their own. -/

namespace Sys2Proof

/-- The mnemonics of the opcode table (R140). -/
inductive Mnemonic where
  | brk | ora | tsb | asl | rmb0 | php | bbr0 | bpl | trb | rmb1 | clc | inc | bbr1 | jsr | and | bit | rol
  | rmb2 | plp | bbr2 | bmi | rmb3 | sec | dec | bbr3 | rti | eor | lsr | rmb4 | pha | jmp | bbr4 | bvc
  | rmb5 | cli | phy | bbr5 | rts | adc | stz | ror | rmb6 | pla | bbr6 | bvs | rmb7 | sei | ply | bbr7 | bra
  | sta | sty | stx | smb0 | dey | txa | bbs0 | bcc | smb1 | tya | txs | bbs1 | ldy | lda | ldx | smb2 | tay
  | tax | bbs2 | bcs | smb3 | clv | tsx | bbs3 | cpy | cmp | smb4 | iny | dex | wai | bbs4 | bne | smb5 | cld
  | phx | stp | bbs5 | cpx | sbc | smb6 | inx | nop | bbs6 | beq | smb7 | sed | plx | bbs7
  deriving DecidableEq, Repr

/-- The addressing modes (R131). -/
inductive Mode where
  | imp | acc | imm | zp | zpx | zpy | izx | izy | izp | abs | abx | aby | ind | iax | rel | zpr
  deriving DecidableEq, Repr

/-- A place in memory: an addressing mode that has an effective address, with its operand bytes (R183 to R191). -/
inductive Place where
  | zp (z : Byte)
  | zpx (z : Byte)
  | zpy (z : Byte)
  | izx (z : Byte)
  | izy (z : Byte)
  | izp (z : Byte)
  | abs (addr : Addr)
  | abx (addr : Addr)
  | aby (addr : Addr)
  deriving DecidableEq, Repr

/-- The operand of an instruction: its addressing mode with its operand bytes (R131). -/
inductive Operand where
  | imp
  | acc
  | imm (v : Byte)
  | mem (place : Place)
  | ind (addr : Addr)
  | iax (addr : Addr)
  | rel (r : Byte)
  | zpr (z : Byte) (r : Byte)
  deriving DecidableEq, Repr

/-- Where a reading instruction takes its operand byte `M` from (R18, R182, R196). -/
inductive Source where
  | imm (v : Byte)
  | mem (place : Place)
  deriving DecidableEq, Repr

/-- What a shift, rotate, increment or decrement works on: `A` or the byte at `EA` (R181, R196). -/
inductive Target where
  | acc
  | mem (place : Place)
  deriving DecidableEq, Repr

/-- The instructions: one constructor per row of spec/opcode_table.json. -/
inductive Instr where
  /-- `BRK` (0x00, R366). -/
  | brk
  /-- `ORA ($nn,X)` (0x01, R321). -/
  | oraIzx (z : Byte)
  /-- `TSB $nn` (0x04, R328). -/
  | tsbZp (z : Byte)
  /-- `ORA $nn` (0x05, R321). -/
  | oraZp (z : Byte)
  /-- `ASL $nn` (0x06, R324). -/
  | aslZp (z : Byte)
  /-- `RMB0 $nn` (0x07, R330). -/
  | rmb0 (z : Byte)
  /-- `PHP` (0x08, R262). -/
  | php
  /-- `ORA #$nn` (0x09, R321). -/
  | oraImm (v : Byte)
  /-- `ASL A` (0x0A, R324). -/
  | aslAcc
  /-- `TSB $nnnn` (0x0C, R328). -/
  | tsbAbs (addr : Addr)
  /-- `ORA $nnnn` (0x0D, R321). -/
  | oraAbs (addr : Addr)
  /-- `ASL $nnnn` (0x0E, R324). -/
  | aslAbs (addr : Addr)
  /-- `BBR0 $nn,$tttt` (0x0F, R377). -/
  | bbr0 (z : Byte) (r : Byte)
  /-- `BPL $tttt` (0x10, R368). -/
  | bpl (r : Byte)
  /-- `ORA ($nn),Y` (0x11, R321). -/
  | oraIzy (z : Byte)
  /-- `ORA ($nn)` (0x12, R321). -/
  | oraIzp (z : Byte)
  /-- `TRB $nn` (0x14, R329). -/
  | trbZp (z : Byte)
  /-- `ORA $nn,X` (0x15, R321). -/
  | oraZpx (z : Byte)
  /-- `ASL $nn,X` (0x16, R324). -/
  | aslZpx (z : Byte)
  /-- `RMB1 $nn` (0x17, R330). -/
  | rmb1 (z : Byte)
  /-- `CLC` (0x18, R400). -/
  | clc
  /-- `ORA $nnnn,Y` (0x19, R321). -/
  | oraAby (addr : Addr)
  /-- `INC A` (0x1A, R292). -/
  | incAcc
  /-- `TRB $nnnn` (0x1C, R329). -/
  | trbAbs (addr : Addr)
  /-- `ORA $nnnn,X` (0x1D, R321). -/
  | oraAbx (addr : Addr)
  /-- `ASL $nnnn,X` (0x1E, R324). -/
  | aslAbx (addr : Addr)
  /-- `BBR1 $nn,$tttt` (0x1F, R377). -/
  | bbr1 (z : Byte) (r : Byte)
  /-- `JSR $nnnn` (0x20, R363). -/
  | jsr (addr : Addr)
  /-- `AND ($nn,X)` (0x21, R320). -/
  | andIzx (z : Byte)
  /-- `BIT $nn` (0x24, R323). -/
  | bitZp (z : Byte)
  /-- `AND $nn` (0x25, R320). -/
  | andZp (z : Byte)
  /-- `ROL $nn` (0x26, R326). -/
  | rolZp (z : Byte)
  /-- `RMB2 $nn` (0x27, R330). -/
  | rmb2 (z : Byte)
  /-- `PLP` (0x28, R266). -/
  | plp
  /-- `AND #$nn` (0x29, R320). -/
  | andImm (v : Byte)
  /-- `ROL A` (0x2A, R326). -/
  | rolAcc
  /-- `BIT $nnnn` (0x2C, R323). -/
  | bitAbs (addr : Addr)
  /-- `AND $nnnn` (0x2D, R320). -/
  | andAbs (addr : Addr)
  /-- `ROL $nnnn` (0x2E, R326). -/
  | rolAbs (addr : Addr)
  /-- `BBR2 $nn,$tttt` (0x2F, R377). -/
  | bbr2 (z : Byte) (r : Byte)
  /-- `BMI $tttt` (0x30, R369). -/
  | bmi (r : Byte)
  /-- `AND ($nn),Y` (0x31, R320). -/
  | andIzy (z : Byte)
  /-- `AND ($nn)` (0x32, R320). -/
  | andIzp (z : Byte)
  /-- `BIT $nn,X` (0x34, R323). -/
  | bitZpx (z : Byte)
  /-- `AND $nn,X` (0x35, R320). -/
  | andZpx (z : Byte)
  /-- `ROL $nn,X` (0x36, R326). -/
  | rolZpx (z : Byte)
  /-- `RMB3 $nn` (0x37, R330). -/
  | rmb3 (z : Byte)
  /-- `SEC` (0x38, R401). -/
  | sec
  /-- `AND $nnnn,Y` (0x39, R320). -/
  | andAby (addr : Addr)
  /-- `DEC A` (0x3A, R293). -/
  | decAcc
  /-- `BIT $nnnn,X` (0x3C, R323). -/
  | bitAbx (addr : Addr)
  /-- `AND $nnnn,X` (0x3D, R320). -/
  | andAbx (addr : Addr)
  /-- `ROL $nnnn,X` (0x3E, R326). -/
  | rolAbx (addr : Addr)
  /-- `BBR3 $nn,$tttt` (0x3F, R377). -/
  | bbr3 (z : Byte) (r : Byte)
  /-- `RTI` (0x40, R365). -/
  | rti
  /-- `EOR ($nn,X)` (0x41, R322). -/
  | eorIzx (z : Byte)
  /-- `EOR $nn` (0x45, R322). -/
  | eorZp (z : Byte)
  /-- `LSR $nn` (0x46, R325). -/
  | lsrZp (z : Byte)
  /-- `RMB4 $nn` (0x47, R330). -/
  | rmb4 (z : Byte)
  /-- `PHA` (0x48, R261). -/
  | pha
  /-- `EOR #$nn` (0x49, R322). -/
  | eorImm (v : Byte)
  /-- `LSR A` (0x4A, R325). -/
  | lsrAcc
  /-- `JMP $nnnn` (0x4C, R360). -/
  | jmpAbs (addr : Addr)
  /-- `EOR $nnnn` (0x4D, R322). -/
  | eorAbs (addr : Addr)
  /-- `LSR $nnnn` (0x4E, R325). -/
  | lsrAbs (addr : Addr)
  /-- `BBR4 $nn,$tttt` (0x4F, R377). -/
  | bbr4 (z : Byte) (r : Byte)
  /-- `BVC $tttt` (0x50, R370). -/
  | bvc (r : Byte)
  /-- `EOR ($nn),Y` (0x51, R322). -/
  | eorIzy (z : Byte)
  /-- `EOR ($nn)` (0x52, R322). -/
  | eorIzp (z : Byte)
  /-- `EOR $nn,X` (0x55, R322). -/
  | eorZpx (z : Byte)
  /-- `LSR $nn,X` (0x56, R325). -/
  | lsrZpx (z : Byte)
  /-- `RMB5 $nn` (0x57, R330). -/
  | rmb5 (z : Byte)
  /-- `CLI` (0x58, R402). -/
  | cli
  /-- `EOR $nnnn,Y` (0x59, R322). -/
  | eorAby (addr : Addr)
  /-- `PHY` (0x5A, R264). -/
  | phy
  /-- `EOR $nnnn,X` (0x5D, R322). -/
  | eorAbx (addr : Addr)
  /-- `LSR $nnnn,X` (0x5E, R325). -/
  | lsrAbx (addr : Addr)
  /-- `BBR5 $nn,$tttt` (0x5F, R377). -/
  | bbr5 (z : Byte) (r : Byte)
  /-- `RTS` (0x60, R364). -/
  | rts
  /-- `ADC ($nn,X)` (0x61, R286). -/
  | adcIzx (z : Byte)
  /-- `STZ $nn` (0x64, R237). -/
  | stzZp (z : Byte)
  /-- `ADC $nn` (0x65, R286). -/
  | adcZp (z : Byte)
  /-- `ROR $nn` (0x66, R327). -/
  | rorZp (z : Byte)
  /-- `RMB6 $nn` (0x67, R330). -/
  | rmb6 (z : Byte)
  /-- `PLA` (0x68, R265). -/
  | pla
  /-- `ADC #$nn` (0x69, R286). -/
  | adcImm (v : Byte)
  /-- `ROR A` (0x6A, R327). -/
  | rorAcc
  /-- `JMP ($nnnn)` (0x6C, R361). -/
  | jmpInd (addr : Addr)
  /-- `ADC $nnnn` (0x6D, R286). -/
  | adcAbs (addr : Addr)
  /-- `ROR $nnnn` (0x6E, R327). -/
  | rorAbs (addr : Addr)
  /-- `BBR6 $nn,$tttt` (0x6F, R377). -/
  | bbr6 (z : Byte) (r : Byte)
  /-- `BVS $tttt` (0x70, R371). -/
  | bvs (r : Byte)
  /-- `ADC ($nn),Y` (0x71, R286). -/
  | adcIzy (z : Byte)
  /-- `ADC ($nn)` (0x72, R286). -/
  | adcIzp (z : Byte)
  /-- `STZ $nn,X` (0x74, R237). -/
  | stzZpx (z : Byte)
  /-- `ADC $nn,X` (0x75, R286). -/
  | adcZpx (z : Byte)
  /-- `ROR $nn,X` (0x76, R327). -/
  | rorZpx (z : Byte)
  /-- `RMB7 $nn` (0x77, R330). -/
  | rmb7 (z : Byte)
  /-- `SEI` (0x78, R403). -/
  | sei
  /-- `ADC $nnnn,Y` (0x79, R286). -/
  | adcAby (addr : Addr)
  /-- `PLY` (0x7A, R268). -/
  | ply
  /-- `JMP ($nnnn,X)` (0x7C, R362). -/
  | jmpIax (addr : Addr)
  /-- `ADC $nnnn,X` (0x7D, R286). -/
  | adcAbx (addr : Addr)
  /-- `ROR $nnnn,X` (0x7E, R327). -/
  | rorAbx (addr : Addr)
  /-- `BBR7 $nn,$tttt` (0x7F, R377). -/
  | bbr7 (z : Byte) (r : Byte)
  /-- `BRA $tttt` (0x80, R376). -/
  | bra (r : Byte)
  /-- `STA ($nn,X)` (0x81, R234). -/
  | staIzx (z : Byte)
  /-- `STY $nn` (0x84, R236). -/
  | styZp (z : Byte)
  /-- `STA $nn` (0x85, R234). -/
  | staZp (z : Byte)
  /-- `STX $nn` (0x86, R235). -/
  | stxZp (z : Byte)
  /-- `SMB0 $nn` (0x87, R331). -/
  | smb0 (z : Byte)
  /-- `DEY` (0x88, R297). -/
  | dey
  /-- `BIT #$nn` (0x89, R323). -/
  | bitImm (v : Byte)
  /-- `TXA` (0x8A, R240). -/
  | txa
  /-- `STY $nnnn` (0x8C, R236). -/
  | styAbs (addr : Addr)
  /-- `STA $nnnn` (0x8D, R234). -/
  | staAbs (addr : Addr)
  /-- `STX $nnnn` (0x8E, R235). -/
  | stxAbs (addr : Addr)
  /-- `BBS0 $nn,$tttt` (0x8F, R378). -/
  | bbs0 (z : Byte) (r : Byte)
  /-- `BCC $tttt` (0x90, R372). -/
  | bcc (r : Byte)
  /-- `STA ($nn),Y` (0x91, R234). -/
  | staIzy (z : Byte)
  /-- `STA ($nn)` (0x92, R234). -/
  | staIzp (z : Byte)
  /-- `STY $nn,X` (0x94, R236). -/
  | styZpx (z : Byte)
  /-- `STA $nn,X` (0x95, R234). -/
  | staZpx (z : Byte)
  /-- `STX $nn,Y` (0x96, R235). -/
  | stxZpy (z : Byte)
  /-- `SMB1 $nn` (0x97, R331). -/
  | smb1 (z : Byte)
  /-- `TYA` (0x98, R241). -/
  | tya
  /-- `STA $nnnn,Y` (0x99, R234). -/
  | staAby (addr : Addr)
  /-- `TXS` (0x9A, R243). -/
  | txs
  /-- `STZ $nnnn` (0x9C, R237). -/
  | stzAbs (addr : Addr)
  /-- `STA $nnnn,X` (0x9D, R234). -/
  | staAbx (addr : Addr)
  /-- `STZ $nnnn,X` (0x9E, R237). -/
  | stzAbx (addr : Addr)
  /-- `BBS1 $nn,$tttt` (0x9F, R378). -/
  | bbs1 (z : Byte) (r : Byte)
  /-- `LDY #$nn` (0xA0, R233). -/
  | ldyImm (v : Byte)
  /-- `LDA ($nn,X)` (0xA1, R231). -/
  | ldaIzx (z : Byte)
  /-- `LDX #$nn` (0xA2, R232). -/
  | ldxImm (v : Byte)
  /-- `LDY $nn` (0xA4, R233). -/
  | ldyZp (z : Byte)
  /-- `LDA $nn` (0xA5, R231). -/
  | ldaZp (z : Byte)
  /-- `LDX $nn` (0xA6, R232). -/
  | ldxZp (z : Byte)
  /-- `SMB2 $nn` (0xA7, R331). -/
  | smb2 (z : Byte)
  /-- `TAY` (0xA8, R239). -/
  | tay
  /-- `LDA #$nn` (0xA9, R231). -/
  | ldaImm (v : Byte)
  /-- `TAX` (0xAA, R238). -/
  | tax
  /-- `LDY $nnnn` (0xAC, R233). -/
  | ldyAbs (addr : Addr)
  /-- `LDA $nnnn` (0xAD, R231). -/
  | ldaAbs (addr : Addr)
  /-- `LDX $nnnn` (0xAE, R232). -/
  | ldxAbs (addr : Addr)
  /-- `BBS2 $nn,$tttt` (0xAF, R378). -/
  | bbs2 (z : Byte) (r : Byte)
  /-- `BCS $tttt` (0xB0, R373). -/
  | bcs (r : Byte)
  /-- `LDA ($nn),Y` (0xB1, R231). -/
  | ldaIzy (z : Byte)
  /-- `LDA ($nn)` (0xB2, R231). -/
  | ldaIzp (z : Byte)
  /-- `LDY $nn,X` (0xB4, R233). -/
  | ldyZpx (z : Byte)
  /-- `LDA $nn,X` (0xB5, R231). -/
  | ldaZpx (z : Byte)
  /-- `LDX $nn,Y` (0xB6, R232). -/
  | ldxZpy (z : Byte)
  /-- `SMB3 $nn` (0xB7, R331). -/
  | smb3 (z : Byte)
  /-- `CLV` (0xB8, R406). -/
  | clv
  /-- `LDA $nnnn,Y` (0xB9, R231). -/
  | ldaAby (addr : Addr)
  /-- `TSX` (0xBA, R242). -/
  | tsx
  /-- `LDY $nnnn,X` (0xBC, R233). -/
  | ldyAbx (addr : Addr)
  /-- `LDA $nnnn,X` (0xBD, R231). -/
  | ldaAbx (addr : Addr)
  /-- `LDX $nnnn,Y` (0xBE, R232). -/
  | ldxAby (addr : Addr)
  /-- `BBS3 $nn,$tttt` (0xBF, R378). -/
  | bbs3 (z : Byte) (r : Byte)
  /-- `CPY #$nn` (0xC0, R291). -/
  | cpyImm (v : Byte)
  /-- `CMP ($nn,X)` (0xC1, R289). -/
  | cmpIzx (z : Byte)
  /-- `CPY $nn` (0xC4, R291). -/
  | cpyZp (z : Byte)
  /-- `CMP $nn` (0xC5, R289). -/
  | cmpZp (z : Byte)
  /-- `DEC $nn` (0xC6, R293). -/
  | decZp (z : Byte)
  /-- `SMB4 $nn` (0xC7, R331). -/
  | smb4 (z : Byte)
  /-- `INY` (0xC8, R295). -/
  | iny
  /-- `CMP #$nn` (0xC9, R289). -/
  | cmpImm (v : Byte)
  /-- `DEX` (0xCA, R296). -/
  | dex
  /-- `WAI` (0xCB, R411). -/
  | wai
  /-- `CPY $nnnn` (0xCC, R291). -/
  | cpyAbs (addr : Addr)
  /-- `CMP $nnnn` (0xCD, R289). -/
  | cmpAbs (addr : Addr)
  /-- `DEC $nnnn` (0xCE, R293). -/
  | decAbs (addr : Addr)
  /-- `BBS4 $nn,$tttt` (0xCF, R378). -/
  | bbs4 (z : Byte) (r : Byte)
  /-- `BNE $tttt` (0xD0, R374). -/
  | bne (r : Byte)
  /-- `CMP ($nn),Y` (0xD1, R289). -/
  | cmpIzy (z : Byte)
  /-- `CMP ($nn)` (0xD2, R289). -/
  | cmpIzp (z : Byte)
  /-- `CMP $nn,X` (0xD5, R289). -/
  | cmpZpx (z : Byte)
  /-- `DEC $nn,X` (0xD6, R293). -/
  | decZpx (z : Byte)
  /-- `SMB5 $nn` (0xD7, R331). -/
  | smb5 (z : Byte)
  /-- `CLD` (0xD8, R404). -/
  | cld
  /-- `CMP $nnnn,Y` (0xD9, R289). -/
  | cmpAby (addr : Addr)
  /-- `PHX` (0xDA, R263). -/
  | phx
  /-- `STP` (0xDB, R412). -/
  | stp
  /-- `CMP $nnnn,X` (0xDD, R289). -/
  | cmpAbx (addr : Addr)
  /-- `DEC $nnnn,X` (0xDE, R293). -/
  | decAbx (addr : Addr)
  /-- `BBS5 $nn,$tttt` (0xDF, R378). -/
  | bbs5 (z : Byte) (r : Byte)
  /-- `CPX #$nn` (0xE0, R290). -/
  | cpxImm (v : Byte)
  /-- `SBC ($nn,X)` (0xE1, R287). -/
  | sbcIzx (z : Byte)
  /-- `CPX $nn` (0xE4, R290). -/
  | cpxZp (z : Byte)
  /-- `SBC $nn` (0xE5, R287). -/
  | sbcZp (z : Byte)
  /-- `INC $nn` (0xE6, R292). -/
  | incZp (z : Byte)
  /-- `SMB6 $nn` (0xE7, R331). -/
  | smb6 (z : Byte)
  /-- `INX` (0xE8, R294). -/
  | inx
  /-- `SBC #$nn` (0xE9, R287). -/
  | sbcImm (v : Byte)
  /-- `NOP` (0xEA, R407). -/
  | nop
  /-- `CPX $nnnn` (0xEC, R290). -/
  | cpxAbs (addr : Addr)
  /-- `SBC $nnnn` (0xED, R287). -/
  | sbcAbs (addr : Addr)
  /-- `INC $nnnn` (0xEE, R292). -/
  | incAbs (addr : Addr)
  /-- `BBS6 $nn,$tttt` (0xEF, R378). -/
  | bbs6 (z : Byte) (r : Byte)
  /-- `BEQ $tttt` (0xF0, R375). -/
  | beq (r : Byte)
  /-- `SBC ($nn),Y` (0xF1, R287). -/
  | sbcIzy (z : Byte)
  /-- `SBC ($nn)` (0xF2, R287). -/
  | sbcIzp (z : Byte)
  /-- `SBC $nn,X` (0xF5, R287). -/
  | sbcZpx (z : Byte)
  /-- `INC $nn,X` (0xF6, R292). -/
  | incZpx (z : Byte)
  /-- `SMB7 $nn` (0xF7, R331). -/
  | smb7 (z : Byte)
  /-- `SED` (0xF8, R405). -/
  | sed
  /-- `SBC $nnnn,Y` (0xF9, R287). -/
  | sbcAby (addr : Addr)
  /-- `PLX` (0xFA, R267). -/
  | plx
  /-- `SBC $nnnn,X` (0xFD, R287). -/
  | sbcAbx (addr : Addr)
  /-- `INC $nnnn,X` (0xFE, R292). -/
  | incAbx (addr : Addr)
  /-- `BBS7 $nn,$tttt` (0xFF, R378). -/
  | bbs7 (z : Byte) (r : Byte)
  deriving DecidableEq, Repr

end Sys2Proof
end

