-- ==== Sys2Proof/Decode.lean ====
section
/-! DEFINITION. Decoding and encoding (30_encoding.md): the instruction descriptors of opcode_table.json, the opcode map
of R140, a decoder total on any bytes that rejects by name, and an encoder written from the same tables. -/

namespace Sys2Proof

/-- `CMOS` (R10). -/
def Variant.cmos (v : Variant) : Bool := v != .nmos6502

/-- `HAS_BITOPS` (R10). -/
def Variant.hasBitops (v : Variant) : Bool := v == .r65c02 || v == .w65c02s

/-- `HAS_WAI_STP` (R10). -/
def Variant.hasWaiStp (v : Variant) : Bool := v == .w65c02s

/-- The availability classes N, C, B and W of R133. -/
inductive Availability where
  | all
  | cmos
  | bitops
  | waiStp
  deriving DecidableEq, Repr

/-- Does the variant enable the class? (R133) -/
def Variant.enables (v : Variant) : Availability → Bool
  | .all => true
  | .cmos => v.cmos
  | .bitops => v.hasBitops
  | .waiStp => v.hasWaiStp

/-- The instruction length of an addressing mode in bytes (R131). -/
def Mode.length : Mode → Nat
  | .imp | .acc => 1
  | .imm | .zp | .zpx | .zpy | .izx | .izy | .izp | .rel => 2
  | .abs | .abx | .aby | .ind | .iax | .zpr => 3

/-- The Instruction Descriptor (R147, R172): one row of opcode_table.json. The two NMOS fields are `none` where
the table gives no NMOS value because the row does not exist on NMOS6502. -/
structure Descriptor where
  opcode : Byte
  mnemonic : Mnemonic
  mode : Mode
  cycles : Nat
  cyclesNmos : Option Nat
  pagePenalty : Bool
  pagePenaltyNmos : Option Bool
  availability : Availability
  deriving DecidableEq, Repr

/-- The descriptor of an instruction: its row of opcode_table.json. -/
def Instr.desc : Instr → Descriptor
  | .brk => .mk 0x00 .brk .imp 7 (some 7) false (some false) .all
  | .oraIzx _ => .mk 0x01 .ora .izx 6 (some 6) false (some false) .all
  | .tsbZp _ => .mk 0x04 .tsb .zp 5 none false none .cmos
  | .oraZp _ => .mk 0x05 .ora .zp 3 (some 3) false (some false) .all
  | .aslZp _ => .mk 0x06 .asl .zp 5 (some 5) false (some false) .all
  | .rmb0 _ => .mk 0x07 .rmb0 .zp 5 none false none .bitops
  | .php => .mk 0x08 .php .imp 3 (some 3) false (some false) .all
  | .oraImm _ => .mk 0x09 .ora .imm 2 (some 2) false (some false) .all
  | .aslAcc => .mk 0x0A .asl .acc 2 (some 2) false (some false) .all
  | .tsbAbs _ => .mk 0x0C .tsb .abs 6 none false none .cmos
  | .oraAbs _ => .mk 0x0D .ora .abs 4 (some 4) false (some false) .all
  | .aslAbs _ => .mk 0x0E .asl .abs 6 (some 6) false (some false) .all
  | .bbr0 _ _ => .mk 0x0F .bbr0 .zpr 5 none false none .bitops
  | .bpl _ => .mk 0x10 .bpl .rel 2 (some 2) false (some false) .all
  | .oraIzy _ => .mk 0x11 .ora .izy 5 (some 5) true (some true) .all
  | .oraIzp _ => .mk 0x12 .ora .izp 5 none false none .cmos
  | .trbZp _ => .mk 0x14 .trb .zp 5 none false none .cmos
  | .oraZpx _ => .mk 0x15 .ora .zpx 4 (some 4) false (some false) .all
  | .aslZpx _ => .mk 0x16 .asl .zpx 6 (some 6) false (some false) .all
  | .rmb1 _ => .mk 0x17 .rmb1 .zp 5 none false none .bitops
  | .clc => .mk 0x18 .clc .imp 2 (some 2) false (some false) .all
  | .oraAby _ => .mk 0x19 .ora .aby 4 (some 4) true (some true) .all
  | .incAcc => .mk 0x1A .inc .acc 2 none false none .cmos
  | .trbAbs _ => .mk 0x1C .trb .abs 6 none false none .cmos
  | .oraAbx _ => .mk 0x1D .ora .abx 4 (some 4) true (some true) .all
  | .aslAbx _ => .mk 0x1E .asl .abx 6 (some 7) true (some false) .all
  | .bbr1 _ _ => .mk 0x1F .bbr1 .zpr 5 none false none .bitops
  | .jsr _ => .mk 0x20 .jsr .abs 6 (some 6) false (some false) .all
  | .andIzx _ => .mk 0x21 .and .izx 6 (some 6) false (some false) .all
  | .bitZp _ => .mk 0x24 .bit .zp 3 (some 3) false (some false) .all
  | .andZp _ => .mk 0x25 .and .zp 3 (some 3) false (some false) .all
  | .rolZp _ => .mk 0x26 .rol .zp 5 (some 5) false (some false) .all
  | .rmb2 _ => .mk 0x27 .rmb2 .zp 5 none false none .bitops
  | .plp => .mk 0x28 .plp .imp 4 (some 4) false (some false) .all
  | .andImm _ => .mk 0x29 .and .imm 2 (some 2) false (some false) .all
  | .rolAcc => .mk 0x2A .rol .acc 2 (some 2) false (some false) .all
  | .bitAbs _ => .mk 0x2C .bit .abs 4 (some 4) false (some false) .all
  | .andAbs _ => .mk 0x2D .and .abs 4 (some 4) false (some false) .all
  | .rolAbs _ => .mk 0x2E .rol .abs 6 (some 6) false (some false) .all
  | .bbr2 _ _ => .mk 0x2F .bbr2 .zpr 5 none false none .bitops
  | .bmi _ => .mk 0x30 .bmi .rel 2 (some 2) false (some false) .all
  | .andIzy _ => .mk 0x31 .and .izy 5 (some 5) true (some true) .all
  | .andIzp _ => .mk 0x32 .and .izp 5 none false none .cmos
  | .bitZpx _ => .mk 0x34 .bit .zpx 4 none false none .cmos
  | .andZpx _ => .mk 0x35 .and .zpx 4 (some 4) false (some false) .all
  | .rolZpx _ => .mk 0x36 .rol .zpx 6 (some 6) false (some false) .all
  | .rmb3 _ => .mk 0x37 .rmb3 .zp 5 none false none .bitops
  | .sec => .mk 0x38 .sec .imp 2 (some 2) false (some false) .all
  | .andAby _ => .mk 0x39 .and .aby 4 (some 4) true (some true) .all
  | .decAcc => .mk 0x3A .dec .acc 2 none false none .cmos
  | .bitAbx _ => .mk 0x3C .bit .abx 4 none true none .cmos
  | .andAbx _ => .mk 0x3D .and .abx 4 (some 4) true (some true) .all
  | .rolAbx _ => .mk 0x3E .rol .abx 6 (some 7) true (some false) .all
  | .bbr3 _ _ => .mk 0x3F .bbr3 .zpr 5 none false none .bitops
  | .rti => .mk 0x40 .rti .imp 6 (some 6) false (some false) .all
  | .eorIzx _ => .mk 0x41 .eor .izx 6 (some 6) false (some false) .all
  | .eorZp _ => .mk 0x45 .eor .zp 3 (some 3) false (some false) .all
  | .lsrZp _ => .mk 0x46 .lsr .zp 5 (some 5) false (some false) .all
  | .rmb4 _ => .mk 0x47 .rmb4 .zp 5 none false none .bitops
  | .pha => .mk 0x48 .pha .imp 3 (some 3) false (some false) .all
  | .eorImm _ => .mk 0x49 .eor .imm 2 (some 2) false (some false) .all
  | .lsrAcc => .mk 0x4A .lsr .acc 2 (some 2) false (some false) .all
  | .jmpAbs _ => .mk 0x4C .jmp .abs 3 (some 3) false (some false) .all
  | .eorAbs _ => .mk 0x4D .eor .abs 4 (some 4) false (some false) .all
  | .lsrAbs _ => .mk 0x4E .lsr .abs 6 (some 6) false (some false) .all
  | .bbr4 _ _ => .mk 0x4F .bbr4 .zpr 5 none false none .bitops
  | .bvc _ => .mk 0x50 .bvc .rel 2 (some 2) false (some false) .all
  | .eorIzy _ => .mk 0x51 .eor .izy 5 (some 5) true (some true) .all
  | .eorIzp _ => .mk 0x52 .eor .izp 5 none false none .cmos
  | .eorZpx _ => .mk 0x55 .eor .zpx 4 (some 4) false (some false) .all
  | .lsrZpx _ => .mk 0x56 .lsr .zpx 6 (some 6) false (some false) .all
  | .rmb5 _ => .mk 0x57 .rmb5 .zp 5 none false none .bitops
  | .cli => .mk 0x58 .cli .imp 2 (some 2) false (some false) .all
  | .eorAby _ => .mk 0x59 .eor .aby 4 (some 4) true (some true) .all
  | .phy => .mk 0x5A .phy .imp 3 none false none .cmos
  | .eorAbx _ => .mk 0x5D .eor .abx 4 (some 4) true (some true) .all
  | .lsrAbx _ => .mk 0x5E .lsr .abx 6 (some 7) true (some false) .all
  | .bbr5 _ _ => .mk 0x5F .bbr5 .zpr 5 none false none .bitops
  | .rts => .mk 0x60 .rts .imp 6 (some 6) false (some false) .all
  | .adcIzx _ => .mk 0x61 .adc .izx 6 (some 6) false (some false) .all
  | .stzZp _ => .mk 0x64 .stz .zp 3 none false none .cmos
  | .adcZp _ => .mk 0x65 .adc .zp 3 (some 3) false (some false) .all
  | .rorZp _ => .mk 0x66 .ror .zp 5 (some 5) false (some false) .all
  | .rmb6 _ => .mk 0x67 .rmb6 .zp 5 none false none .bitops
  | .pla => .mk 0x68 .pla .imp 4 (some 4) false (some false) .all
  | .adcImm _ => .mk 0x69 .adc .imm 2 (some 2) false (some false) .all
  | .rorAcc => .mk 0x6A .ror .acc 2 (some 2) false (some false) .all
  | .jmpInd _ => .mk 0x6C .jmp .ind 6 (some 5) false (some false) .all
  | .adcAbs _ => .mk 0x6D .adc .abs 4 (some 4) false (some false) .all
  | .rorAbs _ => .mk 0x6E .ror .abs 6 (some 6) false (some false) .all
  | .bbr6 _ _ => .mk 0x6F .bbr6 .zpr 5 none false none .bitops
  | .bvs _ => .mk 0x70 .bvs .rel 2 (some 2) false (some false) .all
  | .adcIzy _ => .mk 0x71 .adc .izy 5 (some 5) true (some true) .all
  | .adcIzp _ => .mk 0x72 .adc .izp 5 none false none .cmos
  | .stzZpx _ => .mk 0x74 .stz .zpx 4 none false none .cmos
  | .adcZpx _ => .mk 0x75 .adc .zpx 4 (some 4) false (some false) .all
  | .rorZpx _ => .mk 0x76 .ror .zpx 6 (some 6) false (some false) .all
  | .rmb7 _ => .mk 0x77 .rmb7 .zp 5 none false none .bitops
  | .sei => .mk 0x78 .sei .imp 2 (some 2) false (some false) .all
  | .adcAby _ => .mk 0x79 .adc .aby 4 (some 4) true (some true) .all
  | .ply => .mk 0x7A .ply .imp 4 none false none .cmos
  | .jmpIax _ => .mk 0x7C .jmp .iax 6 none false none .cmos
  | .adcAbx _ => .mk 0x7D .adc .abx 4 (some 4) true (some true) .all
  | .rorAbx _ => .mk 0x7E .ror .abx 6 (some 7) true (some false) .all
  | .bbr7 _ _ => .mk 0x7F .bbr7 .zpr 5 none false none .bitops
  | .bra _ => .mk 0x80 .bra .rel 3 none false none .cmos
  | .staIzx _ => .mk 0x81 .sta .izx 6 (some 6) false (some false) .all
  | .styZp _ => .mk 0x84 .sty .zp 3 (some 3) false (some false) .all
  | .staZp _ => .mk 0x85 .sta .zp 3 (some 3) false (some false) .all
  | .stxZp _ => .mk 0x86 .stx .zp 3 (some 3) false (some false) .all
  | .smb0 _ => .mk 0x87 .smb0 .zp 5 none false none .bitops
  | .dey => .mk 0x88 .dey .imp 2 (some 2) false (some false) .all
  | .bitImm _ => .mk 0x89 .bit .imm 2 none false none .cmos
  | .txa => .mk 0x8A .txa .imp 2 (some 2) false (some false) .all
  | .styAbs _ => .mk 0x8C .sty .abs 4 (some 4) false (some false) .all
  | .staAbs _ => .mk 0x8D .sta .abs 4 (some 4) false (some false) .all
  | .stxAbs _ => .mk 0x8E .stx .abs 4 (some 4) false (some false) .all
  | .bbs0 _ _ => .mk 0x8F .bbs0 .zpr 5 none false none .bitops
  | .bcc _ => .mk 0x90 .bcc .rel 2 (some 2) false (some false) .all
  | .staIzy _ => .mk 0x91 .sta .izy 6 (some 6) false (some false) .all
  | .staIzp _ => .mk 0x92 .sta .izp 5 none false none .cmos
  | .styZpx _ => .mk 0x94 .sty .zpx 4 (some 4) false (some false) .all
  | .staZpx _ => .mk 0x95 .sta .zpx 4 (some 4) false (some false) .all
  | .stxZpy _ => .mk 0x96 .stx .zpy 4 (some 4) false (some false) .all
  | .smb1 _ => .mk 0x97 .smb1 .zp 5 none false none .bitops
  | .tya => .mk 0x98 .tya .imp 2 (some 2) false (some false) .all
  | .staAby _ => .mk 0x99 .sta .aby 5 (some 5) false (some false) .all
  | .txs => .mk 0x9A .txs .imp 2 (some 2) false (some false) .all
  | .stzAbs _ => .mk 0x9C .stz .abs 4 none false none .cmos
  | .staAbx _ => .mk 0x9D .sta .abx 5 (some 5) false (some false) .all
  | .stzAbx _ => .mk 0x9E .stz .abx 5 none false none .cmos
  | .bbs1 _ _ => .mk 0x9F .bbs1 .zpr 5 none false none .bitops
  | .ldyImm _ => .mk 0xA0 .ldy .imm 2 (some 2) false (some false) .all
  | .ldaIzx _ => .mk 0xA1 .lda .izx 6 (some 6) false (some false) .all
  | .ldxImm _ => .mk 0xA2 .ldx .imm 2 (some 2) false (some false) .all
  | .ldyZp _ => .mk 0xA4 .ldy .zp 3 (some 3) false (some false) .all
  | .ldaZp _ => .mk 0xA5 .lda .zp 3 (some 3) false (some false) .all
  | .ldxZp _ => .mk 0xA6 .ldx .zp 3 (some 3) false (some false) .all
  | .smb2 _ => .mk 0xA7 .smb2 .zp 5 none false none .bitops
  | .tay => .mk 0xA8 .tay .imp 2 (some 2) false (some false) .all
  | .ldaImm _ => .mk 0xA9 .lda .imm 2 (some 2) false (some false) .all
  | .tax => .mk 0xAA .tax .imp 2 (some 2) false (some false) .all
  | .ldyAbs _ => .mk 0xAC .ldy .abs 4 (some 4) false (some false) .all
  | .ldaAbs _ => .mk 0xAD .lda .abs 4 (some 4) false (some false) .all
  | .ldxAbs _ => .mk 0xAE .ldx .abs 4 (some 4) false (some false) .all
  | .bbs2 _ _ => .mk 0xAF .bbs2 .zpr 5 none false none .bitops
  | .bcs _ => .mk 0xB0 .bcs .rel 2 (some 2) false (some false) .all
  | .ldaIzy _ => .mk 0xB1 .lda .izy 5 (some 5) true (some true) .all
  | .ldaIzp _ => .mk 0xB2 .lda .izp 5 none false none .cmos
  | .ldyZpx _ => .mk 0xB4 .ldy .zpx 4 (some 4) false (some false) .all
  | .ldaZpx _ => .mk 0xB5 .lda .zpx 4 (some 4) false (some false) .all
  | .ldxZpy _ => .mk 0xB6 .ldx .zpy 4 (some 4) false (some false) .all
  | .smb3 _ => .mk 0xB7 .smb3 .zp 5 none false none .bitops
  | .clv => .mk 0xB8 .clv .imp 2 (some 2) false (some false) .all
  | .ldaAby _ => .mk 0xB9 .lda .aby 4 (some 4) true (some true) .all
  | .tsx => .mk 0xBA .tsx .imp 2 (some 2) false (some false) .all
  | .ldyAbx _ => .mk 0xBC .ldy .abx 4 (some 4) true (some true) .all
  | .ldaAbx _ => .mk 0xBD .lda .abx 4 (some 4) true (some true) .all
  | .ldxAby _ => .mk 0xBE .ldx .aby 4 (some 4) true (some true) .all
  | .bbs3 _ _ => .mk 0xBF .bbs3 .zpr 5 none false none .bitops
  | .cpyImm _ => .mk 0xC0 .cpy .imm 2 (some 2) false (some false) .all
  | .cmpIzx _ => .mk 0xC1 .cmp .izx 6 (some 6) false (some false) .all
  | .cpyZp _ => .mk 0xC4 .cpy .zp 3 (some 3) false (some false) .all
  | .cmpZp _ => .mk 0xC5 .cmp .zp 3 (some 3) false (some false) .all
  | .decZp _ => .mk 0xC6 .dec .zp 5 (some 5) false (some false) .all
  | .smb4 _ => .mk 0xC7 .smb4 .zp 5 none false none .bitops
  | .iny => .mk 0xC8 .iny .imp 2 (some 2) false (some false) .all
  | .cmpImm _ => .mk 0xC9 .cmp .imm 2 (some 2) false (some false) .all
  | .dex => .mk 0xCA .dex .imp 2 (some 2) false (some false) .all
  | .wai => .mk 0xCB .wai .imp 3 none false none .waiStp
  | .cpyAbs _ => .mk 0xCC .cpy .abs 4 (some 4) false (some false) .all
  | .cmpAbs _ => .mk 0xCD .cmp .abs 4 (some 4) false (some false) .all
  | .decAbs _ => .mk 0xCE .dec .abs 6 (some 6) false (some false) .all
  | .bbs4 _ _ => .mk 0xCF .bbs4 .zpr 5 none false none .bitops
  | .bne _ => .mk 0xD0 .bne .rel 2 (some 2) false (some false) .all
  | .cmpIzy _ => .mk 0xD1 .cmp .izy 5 (some 5) true (some true) .all
  | .cmpIzp _ => .mk 0xD2 .cmp .izp 5 none false none .cmos
  | .cmpZpx _ => .mk 0xD5 .cmp .zpx 4 (some 4) false (some false) .all
  | .decZpx _ => .mk 0xD6 .dec .zpx 6 (some 6) false (some false) .all
  | .smb5 _ => .mk 0xD7 .smb5 .zp 5 none false none .bitops
  | .cld => .mk 0xD8 .cld .imp 2 (some 2) false (some false) .all
  | .cmpAby _ => .mk 0xD9 .cmp .aby 4 (some 4) true (some true) .all
  | .phx => .mk 0xDA .phx .imp 3 none false none .cmos
  | .stp => .mk 0xDB .stp .imp 3 none false none .waiStp
  | .cmpAbx _ => .mk 0xDD .cmp .abx 4 (some 4) true (some true) .all
  | .decAbx _ => .mk 0xDE .dec .abx 7 (some 7) false (some false) .all
  | .bbs5 _ _ => .mk 0xDF .bbs5 .zpr 5 none false none .bitops
  | .cpxImm _ => .mk 0xE0 .cpx .imm 2 (some 2) false (some false) .all
  | .sbcIzx _ => .mk 0xE1 .sbc .izx 6 (some 6) false (some false) .all
  | .cpxZp _ => .mk 0xE4 .cpx .zp 3 (some 3) false (some false) .all
  | .sbcZp _ => .mk 0xE5 .sbc .zp 3 (some 3) false (some false) .all
  | .incZp _ => .mk 0xE6 .inc .zp 5 (some 5) false (some false) .all
  | .smb6 _ => .mk 0xE7 .smb6 .zp 5 none false none .bitops
  | .inx => .mk 0xE8 .inx .imp 2 (some 2) false (some false) .all
  | .sbcImm _ => .mk 0xE9 .sbc .imm 2 (some 2) false (some false) .all
  | .nop => .mk 0xEA .nop .imp 2 (some 2) false (some false) .all
  | .cpxAbs _ => .mk 0xEC .cpx .abs 4 (some 4) false (some false) .all
  | .sbcAbs _ => .mk 0xED .sbc .abs 4 (some 4) false (some false) .all
  | .incAbs _ => .mk 0xEE .inc .abs 6 (some 6) false (some false) .all
  | .bbs6 _ _ => .mk 0xEF .bbs6 .zpr 5 none false none .bitops
  | .beq _ => .mk 0xF0 .beq .rel 2 (some 2) false (some false) .all
  | .sbcIzy _ => .mk 0xF1 .sbc .izy 5 (some 5) true (some true) .all
  | .sbcIzp _ => .mk 0xF2 .sbc .izp 5 none false none .cmos
  | .sbcZpx _ => .mk 0xF5 .sbc .zpx 4 (some 4) false (some false) .all
  | .incZpx _ => .mk 0xF6 .inc .zpx 6 (some 6) false (some false) .all
  | .smb7 _ => .mk 0xF7 .smb7 .zp 5 none false none .bitops
  | .sed => .mk 0xF8 .sed .imp 2 (some 2) false (some false) .all
  | .sbcAby _ => .mk 0xF9 .sbc .aby 4 (some 4) true (some true) .all
  | .plx => .mk 0xFA .plx .imp 4 none false none .cmos
  | .sbcAbx _ => .mk 0xFD .sbc .abx 4 (some 4) true (some true) .all
  | .incAbx _ => .mk 0xFE .inc .abx 7 (some 7) false (some false) .all
  | .bbs7 _ _ => .mk 0xFF .bbs7 .zpr 5 none false none .bitops

/-- The operand of an instruction, as an addressing mode with its bytes (R131). -/
def Instr.operand : Instr → Operand
  | .brk => .imp
  | .oraIzx z => .mem (.izx z)
  | .tsbZp z => .mem (.zp z)
  | .oraZp z => .mem (.zp z)
  | .aslZp z => .mem (.zp z)
  | .rmb0 z => .mem (.zp z)
  | .php => .imp
  | .oraImm v => .imm v
  | .aslAcc => .acc
  | .tsbAbs addr => .mem (.abs addr)
  | .oraAbs addr => .mem (.abs addr)
  | .aslAbs addr => .mem (.abs addr)
  | .bbr0 z r => .zpr z r
  | .bpl r => .rel r
  | .oraIzy z => .mem (.izy z)
  | .oraIzp z => .mem (.izp z)
  | .trbZp z => .mem (.zp z)
  | .oraZpx z => .mem (.zpx z)
  | .aslZpx z => .mem (.zpx z)
  | .rmb1 z => .mem (.zp z)
  | .clc => .imp
  | .oraAby addr => .mem (.aby addr)
  | .incAcc => .acc
  | .trbAbs addr => .mem (.abs addr)
  | .oraAbx addr => .mem (.abx addr)
  | .aslAbx addr => .mem (.abx addr)
  | .bbr1 z r => .zpr z r
  | .jsr addr => .mem (.abs addr)
  | .andIzx z => .mem (.izx z)
  | .bitZp z => .mem (.zp z)
  | .andZp z => .mem (.zp z)
  | .rolZp z => .mem (.zp z)
  | .rmb2 z => .mem (.zp z)
  | .plp => .imp
  | .andImm v => .imm v
  | .rolAcc => .acc
  | .bitAbs addr => .mem (.abs addr)
  | .andAbs addr => .mem (.abs addr)
  | .rolAbs addr => .mem (.abs addr)
  | .bbr2 z r => .zpr z r
  | .bmi r => .rel r
  | .andIzy z => .mem (.izy z)
  | .andIzp z => .mem (.izp z)
  | .bitZpx z => .mem (.zpx z)
  | .andZpx z => .mem (.zpx z)
  | .rolZpx z => .mem (.zpx z)
  | .rmb3 z => .mem (.zp z)
  | .sec => .imp
  | .andAby addr => .mem (.aby addr)
  | .decAcc => .acc
  | .bitAbx addr => .mem (.abx addr)
  | .andAbx addr => .mem (.abx addr)
  | .rolAbx addr => .mem (.abx addr)
  | .bbr3 z r => .zpr z r
  | .rti => .imp
  | .eorIzx z => .mem (.izx z)
  | .eorZp z => .mem (.zp z)
  | .lsrZp z => .mem (.zp z)
  | .rmb4 z => .mem (.zp z)
  | .pha => .imp
  | .eorImm v => .imm v
  | .lsrAcc => .acc
  | .jmpAbs addr => .mem (.abs addr)
  | .eorAbs addr => .mem (.abs addr)
  | .lsrAbs addr => .mem (.abs addr)
  | .bbr4 z r => .zpr z r
  | .bvc r => .rel r
  | .eorIzy z => .mem (.izy z)
  | .eorIzp z => .mem (.izp z)
  | .eorZpx z => .mem (.zpx z)
  | .lsrZpx z => .mem (.zpx z)
  | .rmb5 z => .mem (.zp z)
  | .cli => .imp
  | .eorAby addr => .mem (.aby addr)
  | .phy => .imp
  | .eorAbx addr => .mem (.abx addr)
  | .lsrAbx addr => .mem (.abx addr)
  | .bbr5 z r => .zpr z r
  | .rts => .imp
  | .adcIzx z => .mem (.izx z)
  | .stzZp z => .mem (.zp z)
  | .adcZp z => .mem (.zp z)
  | .rorZp z => .mem (.zp z)
  | .rmb6 z => .mem (.zp z)
  | .pla => .imp
  | .adcImm v => .imm v
  | .rorAcc => .acc
  | .jmpInd addr => .ind addr
  | .adcAbs addr => .mem (.abs addr)
  | .rorAbs addr => .mem (.abs addr)
  | .bbr6 z r => .zpr z r
  | .bvs r => .rel r
  | .adcIzy z => .mem (.izy z)
  | .adcIzp z => .mem (.izp z)
  | .stzZpx z => .mem (.zpx z)
  | .adcZpx z => .mem (.zpx z)
  | .rorZpx z => .mem (.zpx z)
  | .rmb7 z => .mem (.zp z)
  | .sei => .imp
  | .adcAby addr => .mem (.aby addr)
  | .ply => .imp
  | .jmpIax addr => .iax addr
  | .adcAbx addr => .mem (.abx addr)
  | .rorAbx addr => .mem (.abx addr)
  | .bbr7 z r => .zpr z r
  | .bra r => .rel r
  | .staIzx z => .mem (.izx z)
  | .styZp z => .mem (.zp z)
  | .staZp z => .mem (.zp z)
  | .stxZp z => .mem (.zp z)
  | .smb0 z => .mem (.zp z)
  | .dey => .imp
  | .bitImm v => .imm v
  | .txa => .imp
  | .styAbs addr => .mem (.abs addr)
  | .staAbs addr => .mem (.abs addr)
  | .stxAbs addr => .mem (.abs addr)
  | .bbs0 z r => .zpr z r
  | .bcc r => .rel r
  | .staIzy z => .mem (.izy z)
  | .staIzp z => .mem (.izp z)
  | .styZpx z => .mem (.zpx z)
  | .staZpx z => .mem (.zpx z)
  | .stxZpy z => .mem (.zpy z)
  | .smb1 z => .mem (.zp z)
  | .tya => .imp
  | .staAby addr => .mem (.aby addr)
  | .txs => .imp
  | .stzAbs addr => .mem (.abs addr)
  | .staAbx addr => .mem (.abx addr)
  | .stzAbx addr => .mem (.abx addr)
  | .bbs1 z r => .zpr z r
  | .ldyImm v => .imm v
  | .ldaIzx z => .mem (.izx z)
  | .ldxImm v => .imm v
  | .ldyZp z => .mem (.zp z)
  | .ldaZp z => .mem (.zp z)
  | .ldxZp z => .mem (.zp z)
  | .smb2 z => .mem (.zp z)
  | .tay => .imp
  | .ldaImm v => .imm v
  | .tax => .imp
  | .ldyAbs addr => .mem (.abs addr)
  | .ldaAbs addr => .mem (.abs addr)
  | .ldxAbs addr => .mem (.abs addr)
  | .bbs2 z r => .zpr z r
  | .bcs r => .rel r
  | .ldaIzy z => .mem (.izy z)
  | .ldaIzp z => .mem (.izp z)
  | .ldyZpx z => .mem (.zpx z)
  | .ldaZpx z => .mem (.zpx z)
  | .ldxZpy z => .mem (.zpy z)
  | .smb3 z => .mem (.zp z)
  | .clv => .imp
  | .ldaAby addr => .mem (.aby addr)
  | .tsx => .imp
  | .ldyAbx addr => .mem (.abx addr)
  | .ldaAbx addr => .mem (.abx addr)
  | .ldxAby addr => .mem (.aby addr)
  | .bbs3 z r => .zpr z r
  | .cpyImm v => .imm v
  | .cmpIzx z => .mem (.izx z)
  | .cpyZp z => .mem (.zp z)
  | .cmpZp z => .mem (.zp z)
  | .decZp z => .mem (.zp z)
  | .smb4 z => .mem (.zp z)
  | .iny => .imp
  | .cmpImm v => .imm v
  | .dex => .imp
  | .wai => .imp
  | .cpyAbs addr => .mem (.abs addr)
  | .cmpAbs addr => .mem (.abs addr)
  | .decAbs addr => .mem (.abs addr)
  | .bbs4 z r => .zpr z r
  | .bne r => .rel r
  | .cmpIzy z => .mem (.izy z)
  | .cmpIzp z => .mem (.izp z)
  | .cmpZpx z => .mem (.zpx z)
  | .decZpx z => .mem (.zpx z)
  | .smb5 z => .mem (.zp z)
  | .cld => .imp
  | .cmpAby addr => .mem (.aby addr)
  | .phx => .imp
  | .stp => .imp
  | .cmpAbx addr => .mem (.abx addr)
  | .decAbx addr => .mem (.abx addr)
  | .bbs5 z r => .zpr z r
  | .cpxImm v => .imm v
  | .sbcIzx z => .mem (.izx z)
  | .cpxZp z => .mem (.zp z)
  | .sbcZp z => .mem (.zp z)
  | .incZp z => .mem (.zp z)
  | .smb6 z => .mem (.zp z)
  | .inx => .imp
  | .sbcImm v => .imm v
  | .nop => .imp
  | .cpxAbs addr => .mem (.abs addr)
  | .sbcAbs addr => .mem (.abs addr)
  | .incAbs addr => .mem (.abs addr)
  | .bbs6 z r => .zpr z r
  | .beq r => .rel r
  | .sbcIzy z => .mem (.izy z)
  | .sbcIzp z => .mem (.izp z)
  | .sbcZpx z => .mem (.zpx z)
  | .incZpx z => .mem (.zpx z)
  | .smb7 z => .mem (.zp z)
  | .sed => .imp
  | .sbcAby addr => .mem (.aby addr)
  | .plx => .imp
  | .sbcAbx addr => .mem (.abx addr)
  | .incAbx addr => .mem (.abx addr)
  | .bbs7 z r => .zpr z r

/-- The opcode byte b0 of an instruction (R131). -/
def Instr.opcode (i : Instr) : Byte := i.desc.opcode

/-- The mnemonic of an instruction. -/
def Instr.mnemonic (i : Instr) : Mnemonic := i.desc.mnemonic

/-- The length of an instruction in bytes, 1 to 3 (R130). -/
def Instr.length (i : Instr) : Nat := i.desc.mode.length

/-- The base cycles of an instruction (R173): the NMOS field on NMOS6502. -/
def Instr.baseCycles (v : Variant) (i : Instr) : Nat :=
  match v with
  | .nmos6502 => i.desc.cyclesNmos.getD i.desc.cycles
  | _ => i.desc.cycles

/-- Does the instruction take the page-crossing penalty? (R174) -/
def Instr.hasPagePenalty (v : Variant) (i : Instr) : Bool :=
  match v with
  | .nmos6502 => i.desc.pagePenaltyNmos.getD i.desc.pagePenalty
  | _ => i.desc.pagePenalty

/-- The operand bytes of a place, in address order (R131, R135: the low byte of an address first). -/
def Place.bytes : Place → List Byte
  | .zp z | .zpx z | .zpy z | .izx z | .izy z | .izp z => [z]
  | .abs a | .abx a | .aby a => [lo a, hi a]

/-- The operand bytes b1, b2 of an operand, in address order (R131). -/
def Operand.bytes : Operand → List Byte
  | .imp | .acc => []
  | .imm v => [v]
  | .mem p => p.bytes
  | .ind a | .iax a => [lo a, hi a]
  | .rel r => [r]
  | .zpr z r => [z, r]

/-- The byte a reading instruction reads comes from these operands (R182, R196). -/
def Operand.source? : Operand → Option Source
  | .imm v => some (.imm v)
  | .mem p => some (.mem p)
  | _ => none

/-- The place a storing instruction writes to. -/
def Operand.place? : Operand → Option Place
  | .mem p => some p
  | _ => none

/-- What a read-modify-write instruction works on. -/
def Operand.target? : Operand → Option Target
  | .acc => some .acc
  | .mem p => some (.mem p)
  | _ => none

/-- The addressing mode of a place. -/
def Place.mode : Place → Mode
  | .zp _ => .zp
  | .zpx _ => .zpx
  | .zpy _ => .zpy
  | .izx _ => .izx
  | .izy _ => .izy
  | .izp _ => .izp
  | .abs _ => .abs
  | .abx _ => .abx
  | .aby _ => .aby

/-- The addressing mode of an operand. -/
def Operand.mode : Operand → Mode
  | .imp => .imp
  | .acc => .acc
  | .imm _ => .imm
  | .mem p => p.mode
  | .ind _ => .ind
  | .iax _ => .iax
  | .rel _ => .rel
  | .zpr _ _ => .zpr

/-- The bytes of an instruction: the opcode byte, then its operand bytes (R131). -/
def encode (i : Instr) : List Byte := i.opcode :: i.operand.bytes

/-- A cell of the opcode map: an instruction that waits for no byte, one byte, a low and a high address byte,
or a page-zero byte and an offset byte (R131, R135). -/
inductive Form where
  | plain (i : Instr)
  | byte (f : Byte → Instr)
  | word (f : Addr → Instr)
  | zpr (f : Byte → Byte → Instr)

/-- The cell's instruction with operand bytes of zero; its descriptor is the descriptor of the cell. -/
def Form.sample : Form → Instr
  | .plain i => i
  | .byte f => f 0
  | .word f => f 0
  | .zpr f => f 0 0

/-- The cell's instruction on its operand bytes, and the bytes left over; `none` where there are too few. -/
def Form.build : Form → List Byte → Option (Instr × List Byte)
  | .plain i, rest => some (i, rest)
  | .byte f, b1 :: rest => some (f b1, rest)
  | .word f, b1 :: b2 :: rest => some (f (word16 b2 b1), rest)
  | .zpr f, b1 :: b2 :: rest => some (f b1 b2, rest)
  | _, _ => none

/-- Row 0x of the opcode map (R140). -/
def opcodeRow0 : List (Option Form) := [
  some (.plain .brk), some (.byte .oraIzx), none, none,
  some (.byte .tsbZp), some (.byte .oraZp), some (.byte .aslZp), some (.byte .rmb0),
  some (.plain .php), some (.byte .oraImm), some (.plain .aslAcc), none,
  some (.word .tsbAbs), some (.word .oraAbs), some (.word .aslAbs), some (.zpr .bbr0)]

/-- Row 1x of the opcode map (R140). -/
def opcodeRow1 : List (Option Form) := [
  some (.byte .bpl), some (.byte .oraIzy), some (.byte .oraIzp), none,
  some (.byte .trbZp), some (.byte .oraZpx), some (.byte .aslZpx), some (.byte .rmb1),
  some (.plain .clc), some (.word .oraAby), some (.plain .incAcc), none,
  some (.word .trbAbs), some (.word .oraAbx), some (.word .aslAbx), some (.zpr .bbr1)]

/-- Row 2x of the opcode map (R140). -/
def opcodeRow2 : List (Option Form) := [
  some (.word .jsr), some (.byte .andIzx), none, none,
  some (.byte .bitZp), some (.byte .andZp), some (.byte .rolZp), some (.byte .rmb2),
  some (.plain .plp), some (.byte .andImm), some (.plain .rolAcc), none,
  some (.word .bitAbs), some (.word .andAbs), some (.word .rolAbs), some (.zpr .bbr2)]

/-- Row 3x of the opcode map (R140). -/
def opcodeRow3 : List (Option Form) := [
  some (.byte .bmi), some (.byte .andIzy), some (.byte .andIzp), none,
  some (.byte .bitZpx), some (.byte .andZpx), some (.byte .rolZpx), some (.byte .rmb3),
  some (.plain .sec), some (.word .andAby), some (.plain .decAcc), none,
  some (.word .bitAbx), some (.word .andAbx), some (.word .rolAbx), some (.zpr .bbr3)]

/-- Row 4x of the opcode map (R140). -/
def opcodeRow4 : List (Option Form) := [
  some (.plain .rti), some (.byte .eorIzx), none, none,
  none, some (.byte .eorZp), some (.byte .lsrZp), some (.byte .rmb4),
  some (.plain .pha), some (.byte .eorImm), some (.plain .lsrAcc), none,
  some (.word .jmpAbs), some (.word .eorAbs), some (.word .lsrAbs), some (.zpr .bbr4)]

/-- Row 5x of the opcode map (R140). -/
def opcodeRow5 : List (Option Form) := [
  some (.byte .bvc), some (.byte .eorIzy), some (.byte .eorIzp), none,
  none, some (.byte .eorZpx), some (.byte .lsrZpx), some (.byte .rmb5),
  some (.plain .cli), some (.word .eorAby), some (.plain .phy), none,
  none, some (.word .eorAbx), some (.word .lsrAbx), some (.zpr .bbr5)]

/-- Row 6x of the opcode map (R140). -/
def opcodeRow6 : List (Option Form) := [
  some (.plain .rts), some (.byte .adcIzx), none, none,
  some (.byte .stzZp), some (.byte .adcZp), some (.byte .rorZp), some (.byte .rmb6),
  some (.plain .pla), some (.byte .adcImm), some (.plain .rorAcc), none,
  some (.word .jmpInd), some (.word .adcAbs), some (.word .rorAbs), some (.zpr .bbr6)]

/-- Row 7x of the opcode map (R140). -/
def opcodeRow7 : List (Option Form) := [
  some (.byte .bvs), some (.byte .adcIzy), some (.byte .adcIzp), none,
  some (.byte .stzZpx), some (.byte .adcZpx), some (.byte .rorZpx), some (.byte .rmb7),
  some (.plain .sei), some (.word .adcAby), some (.plain .ply), none,
  some (.word .jmpIax), some (.word .adcAbx), some (.word .rorAbx), some (.zpr .bbr7)]

/-- Row 8x of the opcode map (R140). -/
def opcodeRow8 : List (Option Form) := [
  some (.byte .bra), some (.byte .staIzx), none, none,
  some (.byte .styZp), some (.byte .staZp), some (.byte .stxZp), some (.byte .smb0),
  some (.plain .dey), some (.byte .bitImm), some (.plain .txa), none,
  some (.word .styAbs), some (.word .staAbs), some (.word .stxAbs), some (.zpr .bbs0)]

/-- Row 9x of the opcode map (R140). -/
def opcodeRow9 : List (Option Form) := [
  some (.byte .bcc), some (.byte .staIzy), some (.byte .staIzp), none,
  some (.byte .styZpx), some (.byte .staZpx), some (.byte .stxZpy), some (.byte .smb1),
  some (.plain .tya), some (.word .staAby), some (.plain .txs), none,
  some (.word .stzAbs), some (.word .staAbx), some (.word .stzAbx), some (.zpr .bbs1)]

/-- Row Ax of the opcode map (R140). -/
def opcodeRowA : List (Option Form) := [
  some (.byte .ldyImm), some (.byte .ldaIzx), some (.byte .ldxImm), none,
  some (.byte .ldyZp), some (.byte .ldaZp), some (.byte .ldxZp), some (.byte .smb2),
  some (.plain .tay), some (.byte .ldaImm), some (.plain .tax), none,
  some (.word .ldyAbs), some (.word .ldaAbs), some (.word .ldxAbs), some (.zpr .bbs2)]

/-- Row Bx of the opcode map (R140). -/
def opcodeRowB : List (Option Form) := [
  some (.byte .bcs), some (.byte .ldaIzy), some (.byte .ldaIzp), none,
  some (.byte .ldyZpx), some (.byte .ldaZpx), some (.byte .ldxZpy), some (.byte .smb3),
  some (.plain .clv), some (.word .ldaAby), some (.plain .tsx), none,
  some (.word .ldyAbx), some (.word .ldaAbx), some (.word .ldxAby), some (.zpr .bbs3)]

/-- Row Cx of the opcode map (R140). -/
def opcodeRowC : List (Option Form) := [
  some (.byte .cpyImm), some (.byte .cmpIzx), none, none,
  some (.byte .cpyZp), some (.byte .cmpZp), some (.byte .decZp), some (.byte .smb4),
  some (.plain .iny), some (.byte .cmpImm), some (.plain .dex), some (.plain .wai),
  some (.word .cpyAbs), some (.word .cmpAbs), some (.word .decAbs), some (.zpr .bbs4)]

/-- Row Dx of the opcode map (R140). -/
def opcodeRowD : List (Option Form) := [
  some (.byte .bne), some (.byte .cmpIzy), some (.byte .cmpIzp), none,
  none, some (.byte .cmpZpx), some (.byte .decZpx), some (.byte .smb5),
  some (.plain .cld), some (.word .cmpAby), some (.plain .phx), some (.plain .stp),
  none, some (.word .cmpAbx), some (.word .decAbx), some (.zpr .bbs5)]

/-- Row Ex of the opcode map (R140). -/
def opcodeRowE : List (Option Form) := [
  some (.byte .cpxImm), some (.byte .sbcIzx), none, none,
  some (.byte .cpxZp), some (.byte .sbcZp), some (.byte .incZp), some (.byte .smb6),
  some (.plain .inx), some (.byte .sbcImm), some (.plain .nop), none,
  some (.word .cpxAbs), some (.word .sbcAbs), some (.word .incAbs), some (.zpr .bbs6)]

/-- Row Fx of the opcode map (R140). -/
def opcodeRowF : List (Option Form) := [
  some (.byte .beq), some (.byte .sbcIzy), some (.byte .sbcIzp), none,
  none, some (.byte .sbcZpx), some (.byte .incZpx), some (.byte .smb7),
  some (.plain .sed), some (.word .sbcAby), some (.plain .plx), none,
  none, some (.word .sbcAbx), some (.word .incAbx), some (.zpr .bbs7)]

/-- The opcode map (R140): rows by high nibble, columns by low nibble. -/
def opcodeMap : List (List (Option Form)) := [
  opcodeRow0, opcodeRow1, opcodeRow2, opcodeRow3, opcodeRow4, opcodeRow5, opcodeRow6, opcodeRow7,
  opcodeRow8, opcodeRow9, opcodeRowA, opcodeRowB, opcodeRowC, opcodeRowD, opcodeRowE, opcodeRowF]

/-- The cell of an opcode byte in the map, whatever the variant. -/
def opcodeForm (op : Byte) : Option Form :=
  match opcodeMap[op.toNat / 16]? with
  | some row =>
    match row[op.toNat % 16]? with
    | some cell => cell
    | none => none
  | none => none

/-- `DECODE(VARIANT, op)` (R172): the cell of the opcode, or `none`, the invalid marker, where the map has no row for it
or the variant does not enable its class (R133, R145). -/
def lookupOpcode (v : Variant) (op : Byte) : Option Form :=
  match opcodeForm op with
  | some f => if v.enables f.sample.desc.availability then some f else none
  | none => none

/-- The length of the instruction an opcode byte begins; `none` for an invalid opcode (R130, R145). -/
def opcodeLength (v : Variant) (op : Byte) : Option Nat :=
  (lookupOpcode v op).map fun f => f.sample.length

/-- Why bytes are no instruction. -/
inductive DecodeError where
  /-- There is no byte to decode. -/
  | noByte
  /-- The opcode byte is invalid for the variant (R145). -/
  | invalidOpcode (op : Byte)
  /-- The opcode asks for more operand bytes than there are. -/
  | truncated (op : Byte)
  deriving DecidableEq, Repr

/-- The instruction at the head of a list of bytes, and the bytes after it (R130, R131, R172). -/
def decode (v : Variant) : List Byte → Except DecodeError (Instr × List Byte)
  | [] => .error .noByte
  | op :: rest =>
    match lookupOpcode v op with
    | none => .error (.invalidOpcode op)
    | some f =>
      match f.build rest with
      | some r => .ok r
      | none => .error (.truncated op)

/-- The `k` lowest bytes of a number, the lowest first. -/
def littleEndianBytes : Nat → Nat → List Byte
  | 0, _ => []
  | k + 1, w => BitVec.ofNat 8 w :: littleEndianBytes k (w / 256)

/-- The bytes of an instruction whose table bits are `w`: `nbits` bits of it, zeros above, up to the longest
instruction (3 bytes, R130). -/
def tableBytes (nbits w : Nat) : List Byte := littleEndianBytes 3 (w % 2 ^ nbits)

/-- The instruction this decoder reads from the bytes of a table word, on the default variant W65C02S (R10), which
enables every row of the table. -/
def decodeTableWord (nbits w : Nat) : Option Instr :=
  match decode .w65c02s (tableBytes nbits w) with
  | .ok (i, _) => some i
  | .error _ => none

end Sys2Proof
end

