-- ==== Sys2Proof/Machine/Memory.lean ====
section
/-! DEFINITION. A sparse table of bytes by address: cells with strictly rising addresses, none equal to what an unlisted
address reads as. Physical memory (R40) and both breakpoint tables (R42) are such tables. -/

namespace Sys2Proof.Machine

/-- The byte at an address; `fill` where no cell lists it. -/
def Memory.read (fill : Byte) : List Host.Cell → Nat → Byte
  | [], _ => fill
  | (k, b) :: m, p => if k = p then b else Memory.read fill m p

/-- The table with the byte at an address replaced, in canonical form. -/
def Memory.write (fill : Byte) : List Host.Cell → Nat → Byte → List Host.Cell
  | [], p, v => if v = fill then [] else [(p, v)]
  | (k, b) :: m, p, v =>
    if p < k then
      if v = fill then (k, b) :: m else (p, v) :: (k, b) :: m
    else if p = k then
      if v = fill then m else (k, v) :: m
    else (k, b) :: Memory.write fill m p v

/-- The bytes stored at an address and the addresses after it (R525). -/
def Memory.writeAll (fill : Byte) : List Host.Cell → Nat → List Byte → List Host.Cell
  | m, _, [] => m
  | m, p, b :: bs => Memory.writeAll fill (Memory.write fill m p b) (p + 1) bs

/-- The canonical form: addresses strictly rise and no cell holds the unlisted byte. -/
abbrev Memory.wf (fill : Byte) (m : List Host.Cell) : Prop :=
  m.Pairwise (fun c d => c.1 < d.1) ∧ ∀ c ∈ m, c.2 ≠ fill

end Sys2Proof.Machine
end

