-- ==== Sys2Proof/Machine/State.lean ====
section
/-! DEFINITION. The state of the machine as plain data (10_state.md), the reasons it can stop, and the state after a
cold reset. The spec's name `S` of the stack pointer is `sp` here, and `P` is the six stored flags. -/

namespace Sys2Proof.Machine

/-- Reasons of a pause (R487). -/
inductive PauseReason where
  | breakpoint
  | step
  | brk
  deriving DecidableEq, Repr

/-- Reasons of a terminal halt (R487). -/
inductive HaltReason where
  | illegalOpcode
  | outOfRange
  | stopped
  deriving DecidableEq, Repr

/-- The controller state `CTRL` (R43). -/
inductive Ctrl where
  | stopped
  | running
  | paused (reason : Option PauseReason)
  | halted (reason : HaltReason)
  deriving DecidableEq, Repr

/-- The reason an event `halted(reason, address)` reports (R487). -/
inductive StopReason where
  | pause (reason : PauseReason)
  | halt (reason : HaltReason)
  deriving DecidableEq, Repr

/-- The emitted events (R487, R493). -/
inductive Event where
  | halted (reason : StopReason) (address : Addr)
  | tickCompleted (cycles : Nat)
  deriving DecidableEq, Repr

/-- `pending_halt` (R41): a halt flagged during an instruction, to take effect at the next boundary. The address is
`none` where it is filled with PC there (R476). -/
structure PendingHalt where
  reason : PauseReason
  address : Option Addr
  deriving DecidableEq, Repr

/-- The recorded fault (R41, R445), with the physical address of the access. -/
inductive FaultReason where
  | outOfRange (paddr : Nat)
  deriving DecidableEq, Repr

/-- The SharedRegisterChannel (R45): offsets 0 to 6 in order. -/
structure Channel where
  a : Byte
  x : Byte
  y : Byte
  sp : Byte
  p : Byte
  pcLo : Byte
  pcHi : Byte
  deriving DecidableEq, Repr

/-- What the platform's interrupt lines do at one boundary (R11, R430, R431). -/
structure Pins where
  nmiEdge : Bool
  irqLine : Bool
  deriving DecidableEq, Repr

/-- The kind a breakpoint descriptor names (R480); `unknown` is any name that is none of the four. -/
inductive KindName where
  | pc
  | read
  | write
  | access
  | unknown (name : String)
  deriving DecidableEq, Repr

/-- A breakpoint descriptor (R480), with physical addresses. -/
structure BpDescriptor where
  kind : KindName
  address : Nat
  endAddress : Option Nat
  enabled : Bool
  deriving DecidableEq, Repr

/-- The host's commands (R485), its edits of the register channel and of memory (R496, R89), the debugger's `clear`
(R473), and the host's choice of tick length (R492). DEDUCED (log entry 19): the last two as commands. -/
inductive Command where
  | init (config : Config)
  | reset (cold : Bool)
  | run (start : Option Addr)
  | pause
  | step
  | setSpeed (multiplier : Ratio)
  | setTickLength (seconds : Ratio)
  | addBreakpoint (descriptor : BpDescriptor)
  | removeBreakpoint (descriptor : BpDescriptor)
  | clearBreakpoints
  | writeChannel (offset : Fin 7) (value : Byte)
  | debugWrite (address : Addr) (value : Byte)
  deriving DecidableEq, Repr

/-- An entry of the host's script: a command that has arrived, or `later`, one step of the machine before the next
entry arrives. DESIGN CHOICE (log entry 4). -/
inductive Arrival where
  | now (command : Command)
  | later
  deriving DecidableEq, Repr

/-- The machine's state. -/
structure State where
  /-- Accumulator (R30). -/
  a : Byte
  /-- Index register X (R31). -/
  x : Byte
  /-- Index register Y (R31). -/
  y : Byte
  /-- Stack pointer S (R32). -/
  sp : Byte
  /-- Program counter (R36). -/
  pc : Addr
  /-- The six stored flags N V D I Z C (R33). -/
  p : Flags
  /-- Soft-switch state (R38). -/
  sw : SwitchState
  /-- Physical memory (R40), as cells; an unlisted address holds `cfg.initFill`. -/
  mem : List Host.Cell
  /-- `BP_DENSE` (R42), by logical address; an unlisted entry is 0. -/
  bpDense : List Host.Cell
  /-- `BP_SPARSE` (R42), by physical address; an absent key reads 0. -/
  bpSparse : List Host.Cell
  /-- `nmi_latch` (R41, R430). -/
  nmiLatch : Bool
  /-- `waiting` (R41, R411). -/
  waiting : Bool
  /-- `stopped` (R41, R412). -/
  stopped : Bool
  /-- `pending_halt` (R41, R476). -/
  pendingHalt : Option PendingHalt
  /-- `skip_pc_bp` (R41, R477). -/
  skipPcBp : Bool
  /-- `tick_cycles` (R41, R173). -/
  tickCycles : Nat
  /-- `fault` (R41, R445). -/
  fault : Option FaultReason
  /-- `CTRL` (R43). -/
  ctrl : Ctrl
  /-- The speed multiplier (R44). -/
  speed : Ratio
  /-- The SharedRegisterChannel (R45). -/
  channel : Channel
  /-- The machine configuration (R10), loaded by `init`. -/
  cfg : Config
  /-- The model's own: `execute` is running (R170). -/
  inTick : Bool
  /-- The model's own: the budget of the tick in progress (R170). -/
  budget : Nat
  /-- The model's own: the host's tick length in seconds (R492). -/
  tickLength : Ratio
  /-- The model's own: a pause request not yet sampled at a boundary (R170, R489). -/
  pauseReq : Bool
  /-- The interrupt lines at the coming boundaries; past its end they are quiet (R11). -/
  pins : List Pins
  /-- The host's script: what has arrived and what is to come, in arrival order (R485). -/
  commands : List Arrival
  /-- The events emitted so far, oldest first (R493). -/
  events : List Event
  deriving DecidableEq, Repr

/-- The ways the machine stops. -/
inductive Fault where
  /-- A bus access of an instruction, an interrupt entry or a reset resolved to a physical address at or above
  `MEM_SIZE` (R83, R178, R445). Raised by every bus access. `halted` is the state the engine halts in: the earlier
  effects kept, `fault` recorded, `CTRL` Halted(out-of-range), the event emitted. DEDUCED (log entry 9). Safe: the
  spec says that a model treats it as a fault outcome and claims nothing after it. -/
  | outOfRange (paddr : Nat) (halted : State)
  deriving DecidableEq, Repr

/-- The steps the machine has no move for. -/
inductive Refusal where
  /-- An instruction the model gives no meaning. Raised by no arm of `exec` as it stands. Safe. -/
  | notModelled (mnemonic : String)
  /-- The host wrote the register channel or called `debugWrite` while `CTRL` is Running: a caller error, for which
  the spec gives no move (R89, R496, R536; DEDUCED, log entry 23). Raised by the host's command, never by an
  instruction. Safe. -/
  | hostEditWhileRunning
  deriving DecidableEq, Repr

/-- The machine right after a cold reset (R46, R520) of the standard configuration: registers from `RESET_REGS`, the
switches at their default, PC from the reset vector, which an empty memory holds as 0x0000, `CTRL` Paused(none), the
channel published. The fields a reset does not touch are at the values log entries 4 to 6 name. -/
def State.reset : State where
  a := 0x00
  x := 0x00
  y := 0x00
  sp := 0xFD
  pc := 0x0000
  p := { n := false, v := false, d := false, i := true, z := false, c := false }
  sw := 0
  mem := []
  bpDense := []
  bpSparse := []
  nmiLatch := false
  waiting := false
  stopped := false
  pendingHalt := none
  skipPcBp := false
  tickCycles := 0
  fault := none
  ctrl := .paused none
  speed := { num := 1, den := 1 }
  channel := { a := 0x00, x := 0x00, y := 0x00, sp := 0xFD, p := 0x34, pcLo := 0x00, pcHi := 0x00 }
  cfg := Config.standard
  inTick := false
  budget := 0
  tickLength := { num := 1, den := 60 }
  pauseReq := false
  pins := []
  commands := []
  events := []

end Sys2Proof.Machine
end

