-- ==== Sys2Proof/Machine/Bus.lean ====
section
/-! DEFINITION. The bus (20_memory.md): bank resolution, the soft-switch side effect, and the bus and debug accessors. -/

namespace Sys2Proof.Machine

/-- What a sequence of bus accesses comes to: a value and the state after it, or the first out-of-range access, with
its physical address and the state before it (R83, R178). -/
inductive Access (α : Type) where
  | done (v : α) (s : State)
  | outOfRange (paddr : Nat) (s : State)
  deriving DecidableEq, Repr

/-- Go on with the value and the state, unless an access was out of range. -/
def Access.bind {α β : Type} (x : Access α) (f : α → State → Access β) : Access β :=
  match x with
  | .done v s => f v s
  | .outOfRange p s => .outOfRange p s

/-- Does a table row apply to an access of kind `k` at `a` with the switches at `sw`? -/
def guardApplies (g : Guard) (sw : SwitchState) (k : AccessKind) (a : Addr) : Bool :=
  (g.kind == none || g.kind == some k) && decide (g.first ≤ a) && decide (a ≤ g.last) && (sw &&& g.swMask) == g.swBits

/-- `BANK_MAP(SW, k, a)`: the offset of the first row that applies (R82). -/
def bankOffset (cfg : Config) (sw : SwitchState) (k : AccessKind) (a : Addr) : Nat :=
  match cfg.bankMap.find? (fun r => guardApplies r.guard sw k a) with
  | some r => r.offset
  | none => cfg.bankDefault

/-- `phys(SW, k, a) = a + BANK_MAP(SW, k, a)` (R82). -/
def physAddr (cfg : Config) (sw : SwitchState) (k : AccessKind) (a : Addr) : Nat :=
  a.toNat + bankOffset cfg sw k a

/-- `SWITCH_DECODE(SW, k, a, v)`: the switches after an access (R87). -/
def switchDecode (cfg : Config) (sw : SwitchState) (k : AccessKind) (a : Addr) (v : Byte) : SwitchState :=
  match cfg.switchDecode.find?
      (fun r => guardApplies r.guard sw k a && (v &&& r.valueMask) == r.valueBits) with
  | some r => (sw &&& r.keep) ^^^ r.flip
  | none => sw

/-- The physical address an access of kind `k` at `a` resolves to now. -/
def State.phys (s : State) (k : AccessKind) (a : Addr) : Nat := physAddr s.cfg s.sw k a

/-- The byte of physical memory at an address (R40). DESIGN CHOICE (log entry 15): an unlisted one is `INIT_FILL`. -/
def State.memByte (s : State) (p : Nat) : Byte := Memory.read s.cfg.initFill s.mem p

/-- Physical memory with one byte replaced. -/
def State.setMemByte (s : State) (p : Nat) (v : Byte) : State :=
  { s with mem := Memory.write s.cfg.initFill s.mem p v }

/-- `Bus.read` (R84). The flag `isOpcodeFetch` changes nothing in the bus, so it is no argument here. -/
def busRead (a : Addr) (s : State) : Access Byte :=
  let p := s.phys .read a
  if p < s.cfg.memSize then
    let v := s.memByte p
    .done v { s with sw := switchDecode s.cfg s.sw .read a v }
  else .outOfRange p s

/-- `Bus.write` (R85): the bank is chosen with the switches before the write. -/
def busWrite (a : Addr) (v : Byte) (s : State) : Access Unit :=
  let p := s.phys .write a
  if p < s.cfg.memSize then
    .done () { s.setMemByte p v with sw := switchDecode s.cfg s.sw .write a v }
  else .outOfRange p s

/-- `Bus.debugRead` (R88): no side effect; `none` where the call is refused. -/
def debugRead (s : State) (a : Addr) : Option Byte :=
  let p := s.phys .read a
  if p < s.cfg.memSize then some (s.memByte p) else none

/-- `Bus.debugWrite` (R89): no switch changes; an out-of-range call changes nothing. -/
def debugWrite (a : Addr) (v : Byte) (s : State) : State :=
  let p := s.phys .write a
  if p < s.cfg.memSize then s.setMemByte p v else s

/-- `Bus.reset` (R90). -/
def busReset (s : State) : State := { s with sw := s.cfg.switchDefault }

end Sys2Proof.Machine
end

