-- ==== Sys2Proof/Machine/Breakpoints.lean ====
section
/-! DEFINITION. The breakpoint table and its evaluation (60_exceptions.md R470 to R482). -/

namespace Sys2Proof.Machine

/-- The flag bits of the breakpoint kinds (R470). -/
def pcBit : Byte := 0x01

/-- The flag bit an access of kind `k` is evaluated against (R470, R476). -/
def kindBit : AccessKind → Byte
  | .read => 0x02
  | .write => 0x04

/-- The flag bits of a descriptor's kind; `none` for an unknown kind (R470, R480). -/
def kindBits : KindName → Option Byte
  | .pc => some 0x01
  | .read => some 0x02
  | .write => some 0x04
  | .access => some 0x06
  | .unknown _ => none

/-- `logical(p)`: the logical addresses a physical address can be reached from through a registered bank (R474). -/
def logical (cfg : Config) (p : Nat) : List Nat :=
  (cfg.bankOffsets.filter fun off => decide (off ≤ p ∧ p - off ≤ 0xFFFF)).map fun off => p - off

/-- The flag byte of a physical address in the sparse map (R42). -/
def State.sparse (s : State) (p : Nat) : Byte := Memory.read 0 s.bpSparse p

/-- The flag byte of a logical address in the dense array (R42). -/
def State.dense (s : State) (l : Nat) : Byte := Memory.read 0 s.bpDense l

/-- The OR of all sparse entries that share the logical address `l` (R471, R475). -/
def denseOf (cfg : Config) (sparse : List Host.Cell) (l : Nat) : Byte :=
  sparse.foldr (fun c acc => if (logical cfg c.1).contains l then c.2 ||| acc else acc) 0

/-- Recompute the dense entries of some logical addresses (R471, R472). -/
def refreshDense (cfg : Config) (sparse : List Host.Cell) : List Nat → List Host.Cell → List Host.Cell
  | [], dense => dense
  | l :: ls, dense => refreshDense cfg sparse ls (Memory.write 0 dense l (denseOf cfg sparse l))

/-- The state with the flag byte of one physical address replaced and its logical entries recomputed. -/
def State.setFlags (s : State) (p : Nat) (v : Byte) : State :=
  let sparse := Memory.write 0 s.bpSparse p v
  { s with bpSparse := sparse, bpDense := refreshDense s.cfg sparse (logical s.cfg p) s.bpDense }

/-- `add` over `n` physical addresses from `p` on (R471). -/
def bpAdd (bits : Byte) : Nat → Nat → State → State
  | 0, _, s => s
  | n + 1, p, s => bpAdd bits n (p + 1) (s.setFlags p (s.sparse p ||| bits))

/-- `remove` over `n` physical addresses from `p` on (R472); an entry that becomes 0 leaves the map. -/
def bpRemove (bits : Byte) : Nat → Nat → State → State
  | 0, _, s => s
  | n + 1, p, s => bpRemove bits n (p + 1) (s.setFlags p (s.sparse p &&& ~~~bits))

/-- `clear()` (R473). -/
def bpClear (s : State) : State := { s with bpDense := [], bpSparse := [] }

/-- The flag bits, the first address and the number of addresses of a descriptor; `none` where it is rejected:
an unknown kind, an end before its address, or an end at or above `MEM_SIZE` (R480). -/
def validDescriptor (cfg : Config) (d : BpDescriptor) : Option (Byte × Nat × Nat) :=
  match kindBits d.kind with
  | none => none
  | some bits =>
    let last := d.endAddress.getD d.address
    if d.address ≤ last ∧ last < cfg.memSize then some (bits, d.address, last - d.address + 1) else none

/-- `addBreakpoint` (R480, R481): a rejected descriptor and one that is not enabled change nothing. -/
def addBreakpoint (d : BpDescriptor) (s : State) : State :=
  match validDescriptor s.cfg d with
  | none => s
  | some (bits, first, n) => if d.enabled then bpAdd bits n first s else s

/-- `removeBreakpoint` (R480, R481): the enabled flag does not matter. -/
def removeBreakpoint (d : BpDescriptor) (s : State) : State :=
  match validDescriptor s.cfg d with
  | none => s
  | some (bits, first, n) => bpRemove bits n first s

/-- Does a flag hit at logical address `a`, resolved with kind `k`? (R476, R477, D10) -/
def flagHit (s : State) (flag : Byte) (k : AccessKind) (a : Addr) : Bool :=
  (s.dense a.toNat &&& flag) != 0 && (!s.cfg.bpBankExact || (s.sparse (s.phys k a) &&& flag) != 0)

/-- The evaluation before a data access (R476): the first hit of an instruction sets `pending_halt`. -/
def noteAccess (k : AccessKind) (a : Addr) (s : State) : State :=
  if flagHit s (kindBit k) k a && s.pendingHalt.isNone then
    { s with pendingHalt := some { reason := .breakpoint, address := none } }
  else s

/-- A PC breakpoint at the current PC (R477). -/
def pcBreakpointHit (s : State) : Bool := flagHit s pcBit .read s.pc

end Sys2Proof.Machine
end

