-- ==== Sys2Proof/Machine/Flags.lean ====
section
/-! DEFINITION. The status byte and every flag computation (R33, R34, R230, 43_arithmetic.md, 44_logic_shift_bit.md),
as functions of bytes and flags. -/

namespace Sys2Proof.Machine

/-- A flag as bit `n` of a byte. -/
def flagBit (b : Bool) (n : Nat) : Byte := if b then bitMask n else 0

/-- `Pbyte(b)`: the status byte composed from the flags with break value `b`; bit 5 is 1 (R33). -/
def pbyte (p : Flags) (b : Bool) : Byte :=
  flagBit p.n 7 ||| flagBit p.v 6 ||| flagBit true 5 ||| flagBit b 4 ||| flagBit p.d 3 ||| flagBit p.i 2 |||
    flagBit p.z 1 ||| flagBit p.c 0

/-- The flags written from a byte; its bits 5 and 4 are ignored (R34). -/
def flagsOfByte (v : Byte) : Flags where
  n := v.getLsbD 7
  v := v.getLsbD 6
  d := v.getLsbD 3
  i := v.getLsbD 2
  z := v.getLsbD 1
  c := v.getLsbD 0

/-- `setNZ(v)` (R230). -/
def setNZ (v : Byte) (p : Flags) : Flags := { p with n := v.getLsbD 7, z := v == 0 }

/-- Binary addition (R280): the sum of two bytes and the carry, with N, V, Z and C. -/
def addBinary (a m : Byte) (p : Flags) : Byte × Flags :=
  let sum := a.toNat + m.toNat + bit p.c
  let r := BitVec.ofNat 8 sum
  (r, { setNZ r p with c := decide (sum > 0xFF), v := ((a ^^^ r) &&& (m ^^^ r) &&& 0x80) != 0 })

/-- The low-digit sum of decimal addition (R281). -/
def decimalLow (a m : Byte) (c : Bool) : Nat :=
  let low := (a &&& 0x0F).toNat + (m &&& 0x0F).toNat + bit c
  if low ≥ 0x0A then ((low + 0x06) &&& 0x0F) + 0x10 else low

/-- The corrected sum `t` of decimal addition (R281). -/
def decimalSum (a m : Byte) (c : Bool) : Nat :=
  let t := (a &&& 0xF0).toNat + (m &&& 0xF0).toNat + decimalLow a m c
  if t ≥ 0xA0 then t + 0x60 else t

/-- The signed intermediate `sv` of decimal addition (R281). -/
def decimalSigned (a m : Byte) (c : Bool) : Int :=
  s8 (a &&& 0xF0) + s8 (m &&& 0xF0) + (decimalLow a m c : Int)

/-- Decimal addition on CMOS (R281): N and Z from the decimal result. -/
def addDecimalCmos (a m : Byte) (p : Flags) : Byte × Flags :=
  let t := decimalSum a m p.c
  let sv := decimalSigned a m p.c
  let r := BitVec.ofNat 8 t
  (r, { setNZ r p with c := decide (t ≥ 0x100), v := decide (sv < -128 ∨ sv > 127) })

/-- Decimal addition on NMOS (R282): N from the signed intermediate, Z from the binary sum. -/
def addDecimalNmos (a m : Byte) (p : Flags) : Byte × Flags :=
  let (r, q) := addDecimalCmos a m p
  (r, { q with
    n := (BitVec.ofInt 8 (decimalSigned a m p.c)).getLsbD 7
    z := BitVec.ofNat 8 (a.toNat + m.toNat + bit p.c) == 0 })

/-- Binary subtraction (R283): binary addition of the ones' complement. -/
def subBinary (a m : Byte) (p : Flags) : Byte × Flags := addBinary a (m ^^^ 0xFF) p

/-- The low-digit difference of decimal subtraction (R284, R285). -/
def decimalLowDiff (a m : Byte) (c : Bool) : Int :=
  ((a &&& 0x0F).toNat : Int) - (m &&& 0x0F).toNat + bit c - 1

/-- Decimal subtraction on CMOS (R284): C and V as binary subtraction, N and Z from the decimal result. -/
def subDecimalCmos (a m : Byte) (p : Flags) : Byte × Flags :=
  let low := decimalLowDiff a m p.c
  let t := (a.toNat : Int) - m.toNat + bit p.c - 1
  let t := if t < 0 then t - 0x60 else t
  let t := if low < 0 then t - 0x06 else t
  let r := BitVec.ofInt 8 t
  (r, setNZ r (subBinary a m p).2)

/-- Decimal subtraction on NMOS (R285): all four flags as binary subtraction. On a negative integer `& 0x0F` is the
remainder modulo 16. -/
def subDecimalNmos (a m : Byte) (p : Flags) : Byte × Flags :=
  let low := decimalLowDiff a m p.c
  let low := if low < 0 then (low - 0x06) % 16 - 0x10 else low
  let t := ((a &&& 0xF0).toNat : Int) - (m &&& 0xF0).toNat + low
  let t := if t < 0 then t - 0x60 else t
  (BitVec.ofInt 8 t, (subBinary a m p).2)

/-- ADC's sum and flags (R286). -/
def addWithCarry (v : Variant) (a m : Byte) (p : Flags) : Byte × Flags :=
  if p.d then
    if v.cmos then addDecimalCmos a m p else addDecimalNmos a m p
  else addBinary a m p

/-- SBC's difference and flags (R287). -/
def subWithBorrow (v : Variant) (a m : Byte) (p : Flags) : Byte × Flags :=
  if p.d then
    if v.cmos then subDecimalCmos a m p else subDecimalNmos a m p
  else subBinary a m p

/-- Compare (R288): C unsigned `R >= M`, Z equality, N of the difference. -/
def compareFlags (r m : Byte) (p : Flags) : Flags :=
  { p with c := decide (m.toNat ≤ r.toNat), z := r == m, n := (r - m).getLsbD 7 }

/-- BIT with a memory operand (R323). -/
def testBits (a m : Byte) (p : Flags) : Flags :=
  { p with z := (a &&& m) == 0, n := m.getLsbD 7, v := m.getLsbD 6 }

/-- BIT immediate, TSB and TRB write only Z (R323, R328, R329). -/
def testZero (a m : Byte) (p : Flags) : Flags := { p with z := (a &&& m) == 0 }

/-- ASL (R324). -/
def shiftLeft (m : Byte) (p : Flags) : Byte × Flags :=
  let r := m <<< 1
  (r, setNZ r { p with c := m.getLsbD 7 })

/-- LSR (R325). -/
def shiftRight (m : Byte) (p : Flags) : Byte × Flags :=
  let r := m >>> 1
  (r, setNZ r { p with c := m.getLsbD 0 })

/-- ROL (R326). -/
def rotateLeft (m : Byte) (p : Flags) : Byte × Flags :=
  let r := (m <<< 1) ||| flagBit p.c 0
  (r, setNZ r { p with c := m.getLsbD 7 })

/-- ROR (R327). -/
def rotateRight (m : Byte) (p : Flags) : Byte × Flags :=
  let r := (m >>> 1) ||| flagBit p.c 7
  (r, setNZ r { p with c := m.getLsbD 0 })

end Sys2Proof.Machine
end

