-- ==== Sys2Proof/Machine/Ops.lean ====
section
/-! DEFINITION. The named operations over registers and memory: the data-access primitives of R15, the stack, the
vectors, taking an exception and returning from one, halts and events, and the frame every instruction runs in
(40_pipeline.md). -/

namespace Sys2Proof.Machine

/-- The 8-bit registers an instruction names (R30, R31, R32). -/
inductive Reg where
  | a
  | x
  | y
  | sp
  deriving DecidableEq, Repr

/-- Read a register by name (R14). -/
def State.reg (s : State) : Reg → Byte
  | .a => s.a
  | .x => s.x
  | .y => s.y
  | .sp => s.sp

/-- Write a register by name (R14). -/
def State.setReg (s : State) : Reg → Byte → State
  | .a, v => { s with a := v }
  | .x, v => { s with x := v }
  | .y, v => { s with y := v }
  | .sp, v => { s with sp := v }

/-- Write the flags. -/
def State.setFlagsP (s : State) (p : Flags) : State := { s with p := p }

/-- Write the program counter. -/
def State.setPc (s : State) (a : Addr) : State := { s with pc := a }

/-- Write a register and set N and Z from the byte (R230). -/
def State.setRegNZ (s : State) (r : Reg) (v : Byte) : State := (s.setReg r v).setFlagsP (setNZ v s.p)

/-- `MemRead(a, 1)` (R15): a data read, evaluated against read breakpoints first (R476). -/
def memRead (a : Addr) (s : State) : Access Byte := busRead a (noteAccess .read a s)

/-- `MemWrite(a, 1, v)` (R15): a data write, evaluated against write breakpoints first (R476). -/
def memWrite (a : Addr) (v : Byte) (s : State) : Access Unit := busWrite a v (noteAccess .write a s)

/-- Two data reads, the low byte of the value first (R15). -/
def readPair (lowAt highAt : Addr) (s : State) : Access Addr :=
  (memRead lowAt s).bind fun l s => (memRead highAt s).bind fun h s => .done (word16 h l) s

/-- `Read16(a)` (R15). -/
def read16 (a : Addr) (s : State) : Access Addr := readPair a (a + 1) s

/-- `ZpRead16(z)`: the high byte wraps inside page zero (R15). -/
def zpRead16 (z : Byte) (s : State) : Access Addr := readPair (zext16 z) (zext16 (z + 1)) s

/-- The logical address of the stack byte at `S` (R32). -/
def stackAddr (sp : Byte) : Addr := 0x0100 + zext16 sp

/-- `Push(v)` (R15, R260). -/
def push (v : Byte) (s : State) : Access Unit :=
  (memWrite (stackAddr s.sp) v s).bind fun _ s => .done () { s with sp := s.sp - 1 }

/-- `Pull()` (R15, R260): S is incremented before the read. -/
def pull (s : State) : Access Byte := memRead (stackAddr (s.sp + 1)) { s with sp := s.sp + 1 }

/-- A 16-bit value pushed high byte first (R92). -/
def push16 (w : Addr) (s : State) : Access Unit :=
  (push (hi w) s).bind fun _ s => push (lo w) s

/-- A 16-bit value pulled low byte first (R364, R365). -/
def pull16 (s : State) : Access Addr :=
  (pull s).bind fun l s => (pull s).bind fun h s => .done (word16 h l) s

/-- The vectors (R432). -/
def nmiVector : Addr := 0xFFFA

/-- The reset vector (R432, R521). -/
def resetVector : Addr := 0xFFFC

/-- The IRQ and BRK vector (R432). -/
def irqVector : Addr := 0xFFFE

/-- Taking an exception, the sequence NMI, IRQ and BRK share (R433, R366): the return address and the status byte with
break value `b` are pushed, I is set, D is cleared on CMOS (D39), and PC comes from the vector. -/
def takeException (vector ret : Addr) (b : Bool) (s : State) : Access Unit :=
  (push16 ret s).bind fun _ s =>
  (push (pbyte s.p b) s).bind fun _ s =>
  let p := { s.p with i := true, d := if s.cfg.variant.cmos then false else s.p.d }
  (read16 vector (s.setFlagsP p)).bind fun target s => .done () (s.setPc target)

/-- `enter_interrupt(vec)` for NMI and IRQ: the pushed PC is that of the next instruction, B is 0, and a WAI ends (R433). -/
def enterInterrupt (vector : Addr) (s : State) : Access Unit :=
  (takeException vector s.pc false s).bind fun _ s => .done () { s with waiting := false }

/-- Returning from an exception (R365): P, then PC, from the stack. -/
def returnFromException (s : State) : Access Unit :=
  (pull s).bind fun v s =>
  (pull16 (s.setFlagsP (flagsOfByte v))).bind fun target s => .done () (s.setPc target)

/-- Emit an event (R493). -/
def State.emit (s : State) (e : Event) : State := { s with events := s.events ++ [e] }

/-- Publish the register channel (R45, R494). -/
def State.publish (s : State) : State :=
  { s with channel :=
      { a := s.a, x := s.x, y := s.y, sp := s.sp, p := pbyte s.p true, pcLo := lo s.pc, pcHi := hi s.pc } }

/-- The state the engine halts in at an out-of-range access (R178, R445): the fault recorded, `CTRL` Halted, the event
with the address of the instruction or entry in progress, `execute` left. -/
def State.haltOutOfRange (s : State) (start : Addr) (p : Nat) : State :=
  { s with fault := some (.outOfRange p), ctrl := .halted .outOfRange, inTick := false }.emit
    (.halted (.halt .outOfRange) start)

/-- The outcome of a sequence of accesses begun at address `start` (R16, R445). -/
def finish (start : Addr) : Access Unit → Host.Outcome State Fault Refusal
  | .done _ s => .next s
  | .outOfRange p s => .fault (.outOfRange p (s.haltOutOfRange start p))

/-- What an operation adds to the base cost (R173): a page cross of its indexed address (R174), branch cycles (R175)
and the decimal cycle (R176). -/
structure Timing where
  cross : Bool := false
  branch : Nat := 0
  decimal : Nat := 0
  deriving DecidableEq, Repr

/-- `cost(d)` (R173): the page cross counts only for the rows that take the penalty (R174). -/
def cost (v : Variant) (i : Instr) (t : Timing) : Nat :=
  i.baseCycles v + bit (t.cross && i.hasPagePenalty v) + t.branch + t.decimal

/-- The end of an instruction or interrupt entry (R170): its cost is charged and `skip_pc_bp` is cleared. -/
def State.complete (s : State) (cycles : Nat) : State :=
  { s with tickCycles := s.tickCycles + cycles, skipPcBp := false }

/-- The frame of an instruction (R170, R179): PC moves past the instruction, the operation is performed, the cost is
charged. The state it runs in has PC at the instruction's own address. -/
def instruction (i : Instr) (operation : State → Access Timing) (s : State) : Host.Outcome State Fault Refusal :=
  finish s.pc <|
    (operation (s.setPc (s.pc + BitVec.ofNat 16 i.length))).bind fun t s =>
      .done () (s.complete (cost s.cfg.variant i t))

/-- An operation on registers and flags alone: no data access, no extra cycle. -/
def registerOnly (f : State → State) (s : State) : Access Timing := .done {} (f s)

/-- The decimal cycle of ADC and SBC (R176). -/
def decimalCycle (s : State) : Nat := bit (s.cfg.variant.cmos && s.p.d)

/-- The branch cycles (R175): `taken` cycles for a taken branch and one more across a page. -/
def branchCycles (taken : Nat) (next target : Addr) : Nat := taken + bit (crosses next target)

end Sys2Proof.Machine
end

