-- ==== Sys2Proof/Machine/Operands.lean ====
section
/-! DEFINITION. The addressing modes (40_pipeline.md R180 to R196): effective addresses, operand reads, and the forms
that read a byte and write it back. -/

namespace Sys2Proof.Machine

/-- An effective address, and whether indexing crossed a page (R174). -/
structure EffAddr where
  addr : Addr
  cross : Bool
  deriving DecidableEq, Repr

/-- The effective address of an unindexed or page-zero mode: no page cross. -/
def plainAddr (a : Addr) : EffAddr := { addr := a, cross := false }

/-- `base + index` modulo 65536, with its page cross (R187, R190, R191). -/
def indexed (base : Addr) (index : Byte) : EffAddr :=
  { addr := base + zext16 index, cross := crosses base (base + zext16 index) }

/-- The effective address of a place (R183 to R191). The pointer reads are data reads. -/
def effAddr (place : Place) (s : State) : Access EffAddr :=
  match place with
  | .zp z => .done (plainAddr (zext16 z)) s
  | .zpx z => .done (plainAddr (zext16 (z + s.x))) s
  | .zpy z => .done (plainAddr (zext16 (z + s.y))) s
  | .izx z => (zpRead16 (z + s.x) s).bind fun a s => .done (plainAddr a) s
  | .izy z => (zpRead16 z s).bind fun base s => .done (indexed base s.y) s
  | .izp z => (zpRead16 z s).bind fun a s => .done (plainAddr a) s
  | .abs a => .done (plainAddr a) s
  | .abx base => .done (indexed base s.x) s
  | .aby base => .done (indexed base s.y) s

/-- An operand byte `M`, and whether its address crossed a page. -/
structure OperandByte where
  value : Byte
  cross : Bool
  deriving DecidableEq, Repr

/-- The operand byte of a reading instruction (R182, R196). -/
def readSource (src : Source) (s : State) : Access OperandByte :=
  match src with
  | .imm v => .done { value := v, cross := false } s
  | .mem place =>
    (effAddr place s).bind fun ea s =>
    (memRead ea.addr s).bind fun m s => .done { value := m, cross := ea.cross } s

/-- A store to a place: the byte is taken from the state after the effective address is known (R234 to R237). -/
def storeTo (place : Place) (value : State → Byte) (s : State) : Access Timing :=
  (effAddr place s).bind fun ea s =>
  (memWrite ea.addr (value s) s).bind fun _ s => .done { cross := ea.cross } s

/-- A read-modify-write whose flags are written before the byte is stored (R324 to R329). -/
def modifyFlagsFirst (place : Place) (f : State → Byte → Byte × Flags) (s : State) : Access Timing :=
  (effAddr place s).bind fun ea s =>
  (memRead ea.addr s).bind fun m s =>
  let r := f s m
  (memWrite ea.addr r.1 (s.setFlagsP r.2)).bind fun _ s => .done { cross := ea.cross } s

/-- A read-modify-write whose flags are written after the byte is stored (R292, R293, R330, R331). -/
def modifyFlagsLast (place : Place) (f : Byte → Byte) (flags : Byte → Flags → Flags) (s : State) : Access Timing :=
  (effAddr place s).bind fun ea s =>
  (memRead ea.addr s).bind fun m s =>
  (memWrite ea.addr (f m) s).bind fun _ s =>
    .done { cross := ea.cross } (s.setFlagsP (flags (f m) s.p))

/-- The target of a jump through a pointer (R192): on NMOS the high byte comes from the pointer's own page (D38). -/
def indirectTarget (ptr : Addr) (s : State) : Access Addr :=
  if s.cfg.variant.cmos then read16 ptr s else readPair ptr (word16 (hi ptr) (lo ptr + 1)) s

/-- The target of a relative branch: PC is already the address after the instruction (R194, R195). -/
def branchTarget (r : Byte) (s : State) : Addr := s.pc + sext16 r

end Sys2Proof.Machine
end

