-- ==== Sys2Proof/Machine/Arithmetic.lean ====
section
/-! DEFINITION. Arithmetic, compare, increment and decrement (43_arithmetic.md).
The shared operations, then the meaning of each row of the table. -/

namespace Sys2Proof.Machine

/-- ADC (R286): the sum to A, with N, V, Z and C, and the decimal cycle (R176). -/
def addToA (src : Source) (s : State) : Access Timing :=
  (readSource src s).bind fun m s =>
  let r := addWithCarry s.cfg.variant s.a m.value s.p
  .done { cross := m.cross, decimal := decimalCycle s } { s with a := r.1, p := r.2 }

/-- SBC (R287): the difference to A, with N, V, Z and C, and the decimal cycle (R176). -/
def subFromA (src : Source) (s : State) : Access Timing :=
  (readSource src s).bind fun m s =>
  let r := subWithBorrow s.cfg.variant s.a m.value s.p
  .done { cross := m.cross, decimal := decimalCycle s } { s with a := r.1, p := r.2 }

/-- Compare a register with the operand byte (R288 to R291). -/
def compareReg (r : Reg) (src : Source) (s : State) : Access Timing :=
  (readSource src s).bind fun m s => .done { cross := m.cross } (s.setFlagsP (compareFlags (s.reg r) m.value s.p))

/-- Increment or decrement a register, with N and Z (R292 to R297). -/
def changeReg (r : Reg) (f : Byte → Byte) (s : State) : Access Timing :=
  registerOnly (fun s => s.setRegNZ r (f (s.reg r))) s

/-- `ADC ($nn,X)` (R286). -/
def execAdcIzx (z : Byte) (s : State) : Host.Outcome State Fault Refusal :=
  instruction (.adcIzx z) (addToA (.mem (.izx z))) s

/-- `ADC $nn` (R286). -/
def execAdcZp (z : Byte) (s : State) : Host.Outcome State Fault Refusal :=
  instruction (.adcZp z) (addToA (.mem (.zp z))) s

/-- `ADC #$nn` (R286). -/
def execAdcImm (v : Byte) (s : State) : Host.Outcome State Fault Refusal :=
  instruction (.adcImm v) (addToA (.imm v)) s

/-- `ADC $nnnn` (R286). -/
def execAdcAbs (addr : Addr) (s : State) : Host.Outcome State Fault Refusal :=
  instruction (.adcAbs addr) (addToA (.mem (.abs addr))) s

/-- `ADC ($nn),Y` (R286). -/
def execAdcIzy (z : Byte) (s : State) : Host.Outcome State Fault Refusal :=
  instruction (.adcIzy z) (addToA (.mem (.izy z))) s

/-- `ADC ($nn)` (R286). -/
def execAdcIzp (z : Byte) (s : State) : Host.Outcome State Fault Refusal :=
  instruction (.adcIzp z) (addToA (.mem (.izp z))) s

/-- `ADC $nn,X` (R286). -/
def execAdcZpx (z : Byte) (s : State) : Host.Outcome State Fault Refusal :=
  instruction (.adcZpx z) (addToA (.mem (.zpx z))) s

/-- `ADC $nnnn,Y` (R286). -/
def execAdcAby (addr : Addr) (s : State) : Host.Outcome State Fault Refusal :=
  instruction (.adcAby addr) (addToA (.mem (.aby addr))) s

/-- `ADC $nnnn,X` (R286). -/
def execAdcAbx (addr : Addr) (s : State) : Host.Outcome State Fault Refusal :=
  instruction (.adcAbx addr) (addToA (.mem (.abx addr))) s

/-- `SBC ($nn,X)` (R287). -/
def execSbcIzx (z : Byte) (s : State) : Host.Outcome State Fault Refusal :=
  instruction (.sbcIzx z) (subFromA (.mem (.izx z))) s

/-- `SBC $nn` (R287). -/
def execSbcZp (z : Byte) (s : State) : Host.Outcome State Fault Refusal :=
  instruction (.sbcZp z) (subFromA (.mem (.zp z))) s

/-- `SBC #$nn` (R287). -/
def execSbcImm (v : Byte) (s : State) : Host.Outcome State Fault Refusal :=
  instruction (.sbcImm v) (subFromA (.imm v)) s

/-- `SBC $nnnn` (R287). -/
def execSbcAbs (addr : Addr) (s : State) : Host.Outcome State Fault Refusal :=
  instruction (.sbcAbs addr) (subFromA (.mem (.abs addr))) s

/-- `SBC ($nn),Y` (R287). -/
def execSbcIzy (z : Byte) (s : State) : Host.Outcome State Fault Refusal :=
  instruction (.sbcIzy z) (subFromA (.mem (.izy z))) s

/-- `SBC ($nn)` (R287). -/
def execSbcIzp (z : Byte) (s : State) : Host.Outcome State Fault Refusal :=
  instruction (.sbcIzp z) (subFromA (.mem (.izp z))) s

/-- `SBC $nn,X` (R287). -/
def execSbcZpx (z : Byte) (s : State) : Host.Outcome State Fault Refusal :=
  instruction (.sbcZpx z) (subFromA (.mem (.zpx z))) s

/-- `SBC $nnnn,Y` (R287). -/
def execSbcAby (addr : Addr) (s : State) : Host.Outcome State Fault Refusal :=
  instruction (.sbcAby addr) (subFromA (.mem (.aby addr))) s

/-- `SBC $nnnn,X` (R287). -/
def execSbcAbx (addr : Addr) (s : State) : Host.Outcome State Fault Refusal :=
  instruction (.sbcAbx addr) (subFromA (.mem (.abx addr))) s

/-- `CMP ($nn,X)` (R289). -/
def execCmpIzx (z : Byte) (s : State) : Host.Outcome State Fault Refusal :=
  instruction (.cmpIzx z) (compareReg .a (.mem (.izx z))) s

/-- `CMP $nn` (R289). -/
def execCmpZp (z : Byte) (s : State) : Host.Outcome State Fault Refusal :=
  instruction (.cmpZp z) (compareReg .a (.mem (.zp z))) s

/-- `CMP #$nn` (R289). -/
def execCmpImm (v : Byte) (s : State) : Host.Outcome State Fault Refusal :=
  instruction (.cmpImm v) (compareReg .a (.imm v)) s

/-- `CMP $nnnn` (R289). -/
def execCmpAbs (addr : Addr) (s : State) : Host.Outcome State Fault Refusal :=
  instruction (.cmpAbs addr) (compareReg .a (.mem (.abs addr))) s

/-- `CMP ($nn),Y` (R289). -/
def execCmpIzy (z : Byte) (s : State) : Host.Outcome State Fault Refusal :=
  instruction (.cmpIzy z) (compareReg .a (.mem (.izy z))) s

/-- `CMP ($nn)` (R289). -/
def execCmpIzp (z : Byte) (s : State) : Host.Outcome State Fault Refusal :=
  instruction (.cmpIzp z) (compareReg .a (.mem (.izp z))) s

/-- `CMP $nn,X` (R289). -/
def execCmpZpx (z : Byte) (s : State) : Host.Outcome State Fault Refusal :=
  instruction (.cmpZpx z) (compareReg .a (.mem (.zpx z))) s

/-- `CMP $nnnn,Y` (R289). -/
def execCmpAby (addr : Addr) (s : State) : Host.Outcome State Fault Refusal :=
  instruction (.cmpAby addr) (compareReg .a (.mem (.aby addr))) s

/-- `CMP $nnnn,X` (R289). -/
def execCmpAbx (addr : Addr) (s : State) : Host.Outcome State Fault Refusal :=
  instruction (.cmpAbx addr) (compareReg .a (.mem (.abx addr))) s

/-- `CPX #$nn` (R290). -/
def execCpxImm (v : Byte) (s : State) : Host.Outcome State Fault Refusal :=
  instruction (.cpxImm v) (compareReg .x (.imm v)) s

/-- `CPX $nn` (R290). -/
def execCpxZp (z : Byte) (s : State) : Host.Outcome State Fault Refusal :=
  instruction (.cpxZp z) (compareReg .x (.mem (.zp z))) s

/-- `CPX $nnnn` (R290). -/
def execCpxAbs (addr : Addr) (s : State) : Host.Outcome State Fault Refusal :=
  instruction (.cpxAbs addr) (compareReg .x (.mem (.abs addr))) s

/-- `CPY #$nn` (R291). -/
def execCpyImm (v : Byte) (s : State) : Host.Outcome State Fault Refusal :=
  instruction (.cpyImm v) (compareReg .y (.imm v)) s

/-- `CPY $nn` (R291). -/
def execCpyZp (z : Byte) (s : State) : Host.Outcome State Fault Refusal :=
  instruction (.cpyZp z) (compareReg .y (.mem (.zp z))) s

/-- `CPY $nnnn` (R291). -/
def execCpyAbs (addr : Addr) (s : State) : Host.Outcome State Fault Refusal :=
  instruction (.cpyAbs addr) (compareReg .y (.mem (.abs addr))) s

/-- `INC A` (R292). -/
def execIncAcc (s : State) : Host.Outcome State Fault Refusal :=
  instruction .incAcc (changeReg .a fun v => v + 1) s

/-- `INC $nn` (R292). -/
def execIncZp (z : Byte) (s : State) : Host.Outcome State Fault Refusal :=
  instruction (.incZp z) (modifyFlagsLast (.zp z) (fun v => v + 1) setNZ) s

/-- `INC $nnnn` (R292). -/
def execIncAbs (addr : Addr) (s : State) : Host.Outcome State Fault Refusal :=
  instruction (.incAbs addr) (modifyFlagsLast (.abs addr) (fun v => v + 1) setNZ) s

/-- `INC $nn,X` (R292). -/
def execIncZpx (z : Byte) (s : State) : Host.Outcome State Fault Refusal :=
  instruction (.incZpx z) (modifyFlagsLast (.zpx z) (fun v => v + 1) setNZ) s

/-- `INC $nnnn,X` (R292). -/
def execIncAbx (addr : Addr) (s : State) : Host.Outcome State Fault Refusal :=
  instruction (.incAbx addr) (modifyFlagsLast (.abx addr) (fun v => v + 1) setNZ) s

/-- `DEC A` (R293). -/
def execDecAcc (s : State) : Host.Outcome State Fault Refusal :=
  instruction .decAcc (changeReg .a fun v => v - 1) s

/-- `DEC $nn` (R293). -/
def execDecZp (z : Byte) (s : State) : Host.Outcome State Fault Refusal :=
  instruction (.decZp z) (modifyFlagsLast (.zp z) (fun v => v - 1) setNZ) s

/-- `DEC $nnnn` (R293). -/
def execDecAbs (addr : Addr) (s : State) : Host.Outcome State Fault Refusal :=
  instruction (.decAbs addr) (modifyFlagsLast (.abs addr) (fun v => v - 1) setNZ) s

/-- `DEC $nn,X` (R293). -/
def execDecZpx (z : Byte) (s : State) : Host.Outcome State Fault Refusal :=
  instruction (.decZpx z) (modifyFlagsLast (.zpx z) (fun v => v - 1) setNZ) s

/-- `DEC $nnnn,X` (R293). -/
def execDecAbx (addr : Addr) (s : State) : Host.Outcome State Fault Refusal :=
  instruction (.decAbx addr) (modifyFlagsLast (.abx addr) (fun v => v - 1) setNZ) s

/-- `INX` (R294). -/
def execInx (s : State) : Host.Outcome State Fault Refusal :=
  instruction .inx (changeReg .x fun v => v + 1) s

/-- `INY` (R295). -/
def execIny (s : State) : Host.Outcome State Fault Refusal :=
  instruction .iny (changeReg .y fun v => v + 1) s

/-- `DEX` (R296). -/
def execDex (s : State) : Host.Outcome State Fault Refusal :=
  instruction .dex (changeReg .x fun v => v - 1) s

/-- `DEY` (R297). -/
def execDey (s : State) : Host.Outcome State Fault Refusal :=
  instruction .dey (changeReg .y fun v => v - 1) s

end Sys2Proof.Machine
end

