-- ==== Sys2Proof/Machine/Control.lean ====
section
/-! DEFINITION. Control transfer (45_control.md). In every operation PC is already the address after
the instruction (R179). The shared operations, then the meaning of each row of the table. -/

namespace Sys2Proof.Machine

/-- JMP absolute (R360). -/
def jump (target : Addr) (s : State) : Access Timing := .done {} (s.setPc target)

/-- JMP through a pointer (R361). -/
def jumpIndirect (ptr : Addr) (s : State) : Access Timing :=
  (indirectTarget ptr s).bind fun target s => .done {} (s.setPc target)

/-- JMP through an indexed pointer (R362, R193). -/
def jumpIndexedIndirect (base : Addr) (s : State) : Access Timing :=
  (read16 (base + zext16 s.x) s).bind fun target s => .done {} (s.setPc target)

/-- JSR (R363): the address of its own last byte is pushed. -/
def jumpSubroutine (target : Addr) (s : State) : Access Timing :=
  (push16 (s.pc - 1) s).bind fun _ s => .done {} (s.setPc target)

/-- RTS (R364): the pulled address plus one. -/
def returnFromSubroutine (s : State) : Access Timing :=
  (pull16 s).bind fun target s => .done {} (s.setPc (target + 1))

/-- RTI (R365). -/
def returnFromInterrupt (s : State) : Access Timing := (returnFromException s).bind fun _ s => .done {} s

/-- The halt BRK flags in the break-on-interrupt mode, unless a breakpoint is already pending (R366, R479, D19).
DEDUCED (log entry 10): the condition is that of R479. -/
def flagBreak (s : State) : State :=
  if s.cfg.breakOnBrk && s.pendingHalt.isNone then
    { s with pendingHalt := some { reason := .brk, address := some s.pc } }
  else s

/-- BRK (R366): the return address is the instruction's own plus 2, B is 1. -/
def softwareInterrupt (s : State) : Access Timing :=
  (takeException irqVector (s.pc + 1) true s).bind fun _ s => .done {} (flagBreak s)

/-- A conditional branch (R367, R175). -/
def branchIf (cond : Flags → Bool) (r : Byte) (s : State) : Access Timing :=
  if cond s.p then
    .done { branch := branchCycles 1 s.pc (branchTarget r s) } (s.setPc (branchTarget r s))
  else .done {} s

/-- BRA (R376, R175): its base cost already counts the taken cycle. -/
def branchAlways (r : Byte) (s : State) : Access Timing :=
  .done { branch := branchCycles 0 s.pc (branchTarget r s) } (s.setPc (branchTarget r s))

/-- BBRn and BBSn: branch when bit `n` of a page-zero byte has the wanted value (R377, R378). -/
def branchOnBit (n : Nat) (want : Bool) (z r : Byte) (s : State) : Access Timing :=
  (memRead (zext16 z) s).bind fun m s => branchIf (fun _ => m.getLsbD n == want) r s

/-- `JMP $nnnn` (R360). -/
def execJmpAbs (addr : Addr) (s : State) : Host.Outcome State Fault Refusal :=
  instruction (.jmpAbs addr) (jump addr) s

/-- `JMP ($nnnn)` (R361). -/
def execJmpInd (addr : Addr) (s : State) : Host.Outcome State Fault Refusal :=
  instruction (.jmpInd addr) (jumpIndirect addr) s

/-- `JMP ($nnnn,X)` (R362). -/
def execJmpIax (addr : Addr) (s : State) : Host.Outcome State Fault Refusal :=
  instruction (.jmpIax addr) (jumpIndexedIndirect addr) s

/-- `JSR $nnnn` (R363). -/
def execJsr (addr : Addr) (s : State) : Host.Outcome State Fault Refusal :=
  instruction (.jsr addr) (jumpSubroutine addr) s

/-- `RTS` (R364). -/
def execRts (s : State) : Host.Outcome State Fault Refusal :=
  instruction .rts returnFromSubroutine s

/-- `RTI` (R365). -/
def execRti (s : State) : Host.Outcome State Fault Refusal :=
  instruction .rti returnFromInterrupt s

/-- `BRK` (R366). -/
def execBrk (s : State) : Host.Outcome State Fault Refusal :=
  instruction .brk softwareInterrupt s

/-- `BPL $tttt` (R368). -/
def execBpl (r : Byte) (s : State) : Host.Outcome State Fault Refusal :=
  instruction (.bpl r) (branchIf (fun p => !p.n) r) s

/-- `BMI $tttt` (R369). -/
def execBmi (r : Byte) (s : State) : Host.Outcome State Fault Refusal :=
  instruction (.bmi r) (branchIf (fun p => p.n) r) s

/-- `BVC $tttt` (R370). -/
def execBvc (r : Byte) (s : State) : Host.Outcome State Fault Refusal :=
  instruction (.bvc r) (branchIf (fun p => !p.v) r) s

/-- `BVS $tttt` (R371). -/
def execBvs (r : Byte) (s : State) : Host.Outcome State Fault Refusal :=
  instruction (.bvs r) (branchIf (fun p => p.v) r) s

/-- `BCC $tttt` (R372). -/
def execBcc (r : Byte) (s : State) : Host.Outcome State Fault Refusal :=
  instruction (.bcc r) (branchIf (fun p => !p.c) r) s

/-- `BCS $tttt` (R373). -/
def execBcs (r : Byte) (s : State) : Host.Outcome State Fault Refusal :=
  instruction (.bcs r) (branchIf (fun p => p.c) r) s

/-- `BNE $tttt` (R374). -/
def execBne (r : Byte) (s : State) : Host.Outcome State Fault Refusal :=
  instruction (.bne r) (branchIf (fun p => !p.z) r) s

/-- `BEQ $tttt` (R375). -/
def execBeq (r : Byte) (s : State) : Host.Outcome State Fault Refusal :=
  instruction (.beq r) (branchIf (fun p => p.z) r) s

/-- `BRA $tttt` (R376). -/
def execBra (r : Byte) (s : State) : Host.Outcome State Fault Refusal :=
  instruction (.bra r) (branchAlways r) s

/-- `BBR0 $nn,$tttt` (R377). -/
def execBbr0 (z : Byte) (r : Byte) (s : State) : Host.Outcome State Fault Refusal :=
  instruction (.bbr0 z r) (branchOnBit 0 false z r) s

/-- `BBR1 $nn,$tttt` (R377). -/
def execBbr1 (z : Byte) (r : Byte) (s : State) : Host.Outcome State Fault Refusal :=
  instruction (.bbr1 z r) (branchOnBit 1 false z r) s

/-- `BBR2 $nn,$tttt` (R377). -/
def execBbr2 (z : Byte) (r : Byte) (s : State) : Host.Outcome State Fault Refusal :=
  instruction (.bbr2 z r) (branchOnBit 2 false z r) s

/-- `BBR3 $nn,$tttt` (R377). -/
def execBbr3 (z : Byte) (r : Byte) (s : State) : Host.Outcome State Fault Refusal :=
  instruction (.bbr3 z r) (branchOnBit 3 false z r) s

/-- `BBR4 $nn,$tttt` (R377). -/
def execBbr4 (z : Byte) (r : Byte) (s : State) : Host.Outcome State Fault Refusal :=
  instruction (.bbr4 z r) (branchOnBit 4 false z r) s

/-- `BBR5 $nn,$tttt` (R377). -/
def execBbr5 (z : Byte) (r : Byte) (s : State) : Host.Outcome State Fault Refusal :=
  instruction (.bbr5 z r) (branchOnBit 5 false z r) s

/-- `BBR6 $nn,$tttt` (R377). -/
def execBbr6 (z : Byte) (r : Byte) (s : State) : Host.Outcome State Fault Refusal :=
  instruction (.bbr6 z r) (branchOnBit 6 false z r) s

/-- `BBR7 $nn,$tttt` (R377). -/
def execBbr7 (z : Byte) (r : Byte) (s : State) : Host.Outcome State Fault Refusal :=
  instruction (.bbr7 z r) (branchOnBit 7 false z r) s

/-- `BBS0 $nn,$tttt` (R378). -/
def execBbs0 (z : Byte) (r : Byte) (s : State) : Host.Outcome State Fault Refusal :=
  instruction (.bbs0 z r) (branchOnBit 0 true z r) s

/-- `BBS1 $nn,$tttt` (R378). -/
def execBbs1 (z : Byte) (r : Byte) (s : State) : Host.Outcome State Fault Refusal :=
  instruction (.bbs1 z r) (branchOnBit 1 true z r) s

/-- `BBS2 $nn,$tttt` (R378). -/
def execBbs2 (z : Byte) (r : Byte) (s : State) : Host.Outcome State Fault Refusal :=
  instruction (.bbs2 z r) (branchOnBit 2 true z r) s

/-- `BBS3 $nn,$tttt` (R378). -/
def execBbs3 (z : Byte) (r : Byte) (s : State) : Host.Outcome State Fault Refusal :=
  instruction (.bbs3 z r) (branchOnBit 3 true z r) s

/-- `BBS4 $nn,$tttt` (R378). -/
def execBbs4 (z : Byte) (r : Byte) (s : State) : Host.Outcome State Fault Refusal :=
  instruction (.bbs4 z r) (branchOnBit 4 true z r) s

/-- `BBS5 $nn,$tttt` (R378). -/
def execBbs5 (z : Byte) (r : Byte) (s : State) : Host.Outcome State Fault Refusal :=
  instruction (.bbs5 z r) (branchOnBit 5 true z r) s

/-- `BBS6 $nn,$tttt` (R378). -/
def execBbs6 (z : Byte) (r : Byte) (s : State) : Host.Outcome State Fault Refusal :=
  instruction (.bbs6 z r) (branchOnBit 6 true z r) s

/-- `BBS7 $nn,$tttt` (R378). -/
def execBbs7 (z : Byte) (r : Byte) (s : State) : Host.Outcome State Fault Refusal :=
  instruction (.bbs7 z r) (branchOnBit 7 true z r) s

end Sys2Proof.Machine
end

