-- ==== Sys2Proof/Machine/FlagsSystem.lean ====
section
/-! DEFINITION. Flag, no-operation and processor-state instructions (46_flags_system.md).
The shared operations, then the meaning of each row of the table. -/

namespace Sys2Proof.Machine

/-- STP (R412): the processor stops, `CTRL` is Halted(stopped), the event is emitted with PC after the instruction. -/
def stopProcessor (s : State) : State :=
  { s with stopped := true, ctrl := .halted .stopped }.emit (.halted (.halt .stopped) s.pc)

/-- `CLC` (R400). -/
def execClc (s : State) : Host.Outcome State Fault Refusal :=
  instruction .clc (registerOnly fun s => s.setFlagsP { s.p with c := false }) s

/-- `SEC` (R401). -/
def execSec (s : State) : Host.Outcome State Fault Refusal :=
  instruction .sec (registerOnly fun s => s.setFlagsP { s.p with c := true }) s

/-- `CLI` (R402). -/
def execCli (s : State) : Host.Outcome State Fault Refusal :=
  instruction .cli (registerOnly fun s => s.setFlagsP { s.p with i := false }) s

/-- `SEI` (R403). -/
def execSei (s : State) : Host.Outcome State Fault Refusal :=
  instruction .sei (registerOnly fun s => s.setFlagsP { s.p with i := true }) s

/-- `CLD` (R404). -/
def execCld (s : State) : Host.Outcome State Fault Refusal :=
  instruction .cld (registerOnly fun s => s.setFlagsP { s.p with d := false }) s

/-- `SED` (R405). -/
def execSed (s : State) : Host.Outcome State Fault Refusal :=
  instruction .sed (registerOnly fun s => s.setFlagsP { s.p with d := true }) s

/-- `CLV` (R406). -/
def execClv (s : State) : Host.Outcome State Fault Refusal :=
  instruction .clv (registerOnly fun s => s.setFlagsP { s.p with v := false }) s

/-- `NOP` (R407). -/
def execNop (s : State) : Host.Outcome State Fault Refusal :=
  instruction .nop (registerOnly fun s => s) s

/-- `WAI` (R411). -/
def execWai (s : State) : Host.Outcome State Fault Refusal :=
  instruction .wai (registerOnly fun s => { s with waiting := true }) s

/-- `STP` (R412). -/
def execStp (s : State) : Host.Outcome State Fault Refusal :=
  instruction .stp (registerOnly stopProcessor) s

end Sys2Proof.Machine
end

