-- ==== Sys2Proof/Machine/LoadStore.lean ====
section
/-! DEFINITION. Loads, stores and register transfers (41_load_store.md).
The shared operations, then the meaning of each row of the table. -/

namespace Sys2Proof.Machine

/-- Load a register from the operand byte, with N and Z (R231 to R233). -/
def load (r : Reg) (src : Source) (s : State) : Access Timing :=
  (readSource src s).bind fun m s => .done { cross := m.cross } (s.setRegNZ r m.value)

/-- Store a register; no flag changes and the place is not read first (R234 to R236). -/
def storeReg (r : Reg) (place : Place) (s : State) : Access Timing := storeTo place (fun s => s.reg r) s

/-- Copy a register into another, with N and Z (R238 to R242). -/
def transfer (src dst : Reg) (s : State) : Access Timing :=
  registerOnly (fun s => s.setRegNZ dst (s.reg src)) s

/-- `LDA ($nn,X)` (R231). -/
def execLdaIzx (z : Byte) (s : State) : Host.Outcome State Fault Refusal :=
  instruction (.ldaIzx z) (load .a (.mem (.izx z))) s

/-- `LDA $nn` (R231). -/
def execLdaZp (z : Byte) (s : State) : Host.Outcome State Fault Refusal :=
  instruction (.ldaZp z) (load .a (.mem (.zp z))) s

/-- `LDA #$nn` (R231). -/
def execLdaImm (v : Byte) (s : State) : Host.Outcome State Fault Refusal :=
  instruction (.ldaImm v) (load .a (.imm v)) s

/-- `LDA $nnnn` (R231). -/
def execLdaAbs (addr : Addr) (s : State) : Host.Outcome State Fault Refusal :=
  instruction (.ldaAbs addr) (load .a (.mem (.abs addr))) s

/-- `LDA ($nn),Y` (R231). -/
def execLdaIzy (z : Byte) (s : State) : Host.Outcome State Fault Refusal :=
  instruction (.ldaIzy z) (load .a (.mem (.izy z))) s

/-- `LDA ($nn)` (R231). -/
def execLdaIzp (z : Byte) (s : State) : Host.Outcome State Fault Refusal :=
  instruction (.ldaIzp z) (load .a (.mem (.izp z))) s

/-- `LDA $nn,X` (R231). -/
def execLdaZpx (z : Byte) (s : State) : Host.Outcome State Fault Refusal :=
  instruction (.ldaZpx z) (load .a (.mem (.zpx z))) s

/-- `LDA $nnnn,Y` (R231). -/
def execLdaAby (addr : Addr) (s : State) : Host.Outcome State Fault Refusal :=
  instruction (.ldaAby addr) (load .a (.mem (.aby addr))) s

/-- `LDA $nnnn,X` (R231). -/
def execLdaAbx (addr : Addr) (s : State) : Host.Outcome State Fault Refusal :=
  instruction (.ldaAbx addr) (load .a (.mem (.abx addr))) s

/-- `LDX #$nn` (R232). -/
def execLdxImm (v : Byte) (s : State) : Host.Outcome State Fault Refusal :=
  instruction (.ldxImm v) (load .x (.imm v)) s

/-- `LDX $nn` (R232). -/
def execLdxZp (z : Byte) (s : State) : Host.Outcome State Fault Refusal :=
  instruction (.ldxZp z) (load .x (.mem (.zp z))) s

/-- `LDX $nnnn` (R232). -/
def execLdxAbs (addr : Addr) (s : State) : Host.Outcome State Fault Refusal :=
  instruction (.ldxAbs addr) (load .x (.mem (.abs addr))) s

/-- `LDX $nn,Y` (R232). -/
def execLdxZpy (z : Byte) (s : State) : Host.Outcome State Fault Refusal :=
  instruction (.ldxZpy z) (load .x (.mem (.zpy z))) s

/-- `LDX $nnnn,Y` (R232). -/
def execLdxAby (addr : Addr) (s : State) : Host.Outcome State Fault Refusal :=
  instruction (.ldxAby addr) (load .x (.mem (.aby addr))) s

/-- `LDY #$nn` (R233). -/
def execLdyImm (v : Byte) (s : State) : Host.Outcome State Fault Refusal :=
  instruction (.ldyImm v) (load .y (.imm v)) s

/-- `LDY $nn` (R233). -/
def execLdyZp (z : Byte) (s : State) : Host.Outcome State Fault Refusal :=
  instruction (.ldyZp z) (load .y (.mem (.zp z))) s

/-- `LDY $nnnn` (R233). -/
def execLdyAbs (addr : Addr) (s : State) : Host.Outcome State Fault Refusal :=
  instruction (.ldyAbs addr) (load .y (.mem (.abs addr))) s

/-- `LDY $nn,X` (R233). -/
def execLdyZpx (z : Byte) (s : State) : Host.Outcome State Fault Refusal :=
  instruction (.ldyZpx z) (load .y (.mem (.zpx z))) s

/-- `LDY $nnnn,X` (R233). -/
def execLdyAbx (addr : Addr) (s : State) : Host.Outcome State Fault Refusal :=
  instruction (.ldyAbx addr) (load .y (.mem (.abx addr))) s

/-- `STA ($nn,X)` (R234). -/
def execStaIzx (z : Byte) (s : State) : Host.Outcome State Fault Refusal :=
  instruction (.staIzx z) (storeReg .a (.izx z)) s

/-- `STA $nn` (R234). -/
def execStaZp (z : Byte) (s : State) : Host.Outcome State Fault Refusal :=
  instruction (.staZp z) (storeReg .a (.zp z)) s

/-- `STA $nnnn` (R234). -/
def execStaAbs (addr : Addr) (s : State) : Host.Outcome State Fault Refusal :=
  instruction (.staAbs addr) (storeReg .a (.abs addr)) s

/-- `STA ($nn),Y` (R234). -/
def execStaIzy (z : Byte) (s : State) : Host.Outcome State Fault Refusal :=
  instruction (.staIzy z) (storeReg .a (.izy z)) s

/-- `STA ($nn)` (R234). -/
def execStaIzp (z : Byte) (s : State) : Host.Outcome State Fault Refusal :=
  instruction (.staIzp z) (storeReg .a (.izp z)) s

/-- `STA $nn,X` (R234). -/
def execStaZpx (z : Byte) (s : State) : Host.Outcome State Fault Refusal :=
  instruction (.staZpx z) (storeReg .a (.zpx z)) s

/-- `STA $nnnn,Y` (R234). -/
def execStaAby (addr : Addr) (s : State) : Host.Outcome State Fault Refusal :=
  instruction (.staAby addr) (storeReg .a (.aby addr)) s

/-- `STA $nnnn,X` (R234). -/
def execStaAbx (addr : Addr) (s : State) : Host.Outcome State Fault Refusal :=
  instruction (.staAbx addr) (storeReg .a (.abx addr)) s

/-- `STX $nn` (R235). -/
def execStxZp (z : Byte) (s : State) : Host.Outcome State Fault Refusal :=
  instruction (.stxZp z) (storeReg .x (.zp z)) s

/-- `STX $nnnn` (R235). -/
def execStxAbs (addr : Addr) (s : State) : Host.Outcome State Fault Refusal :=
  instruction (.stxAbs addr) (storeReg .x (.abs addr)) s

/-- `STX $nn,Y` (R235). -/
def execStxZpy (z : Byte) (s : State) : Host.Outcome State Fault Refusal :=
  instruction (.stxZpy z) (storeReg .x (.zpy z)) s

/-- `STY $nn` (R236). -/
def execStyZp (z : Byte) (s : State) : Host.Outcome State Fault Refusal :=
  instruction (.styZp z) (storeReg .y (.zp z)) s

/-- `STY $nnnn` (R236). -/
def execStyAbs (addr : Addr) (s : State) : Host.Outcome State Fault Refusal :=
  instruction (.styAbs addr) (storeReg .y (.abs addr)) s

/-- `STY $nn,X` (R236). -/
def execStyZpx (z : Byte) (s : State) : Host.Outcome State Fault Refusal :=
  instruction (.styZpx z) (storeReg .y (.zpx z)) s

/-- `STZ $nn` (R237). -/
def execStzZp (z : Byte) (s : State) : Host.Outcome State Fault Refusal :=
  instruction (.stzZp z) (storeTo (.zp z) fun _ => 0x00) s

/-- `STZ $nn,X` (R237). -/
def execStzZpx (z : Byte) (s : State) : Host.Outcome State Fault Refusal :=
  instruction (.stzZpx z) (storeTo (.zpx z) fun _ => 0x00) s

/-- `STZ $nnnn` (R237). -/
def execStzAbs (addr : Addr) (s : State) : Host.Outcome State Fault Refusal :=
  instruction (.stzAbs addr) (storeTo (.abs addr) fun _ => 0x00) s

/-- `STZ $nnnn,X` (R237). -/
def execStzAbx (addr : Addr) (s : State) : Host.Outcome State Fault Refusal :=
  instruction (.stzAbx addr) (storeTo (.abx addr) fun _ => 0x00) s

/-- `TAX` (R238). -/
def execTax (s : State) : Host.Outcome State Fault Refusal :=
  instruction .tax (transfer .a .x) s

/-- `TAY` (R239). -/
def execTay (s : State) : Host.Outcome State Fault Refusal :=
  instruction .tay (transfer .a .y) s

/-- `TXA` (R240). -/
def execTxa (s : State) : Host.Outcome State Fault Refusal :=
  instruction .txa (transfer .x .a) s

/-- `TYA` (R241). -/
def execTya (s : State) : Host.Outcome State Fault Refusal :=
  instruction .tya (transfer .y .a) s

/-- `TSX` (R242). -/
def execTsx (s : State) : Host.Outcome State Fault Refusal :=
  instruction .tsx (transfer .sp .x) s

/-- `TXS` (R243). -/
def execTxs (s : State) : Host.Outcome State Fault Refusal :=
  instruction .txs (registerOnly fun s => s.setReg .sp s.x) s

end Sys2Proof.Machine
end

