-- ==== Sys2Proof/Machine/Logic.lean ====
section
/-! DEFINITION. Logic, shifts and bit operations (44_logic_shift_bit.md).
The shared operations, then the meaning of each row of the table. -/

namespace Sys2Proof.Machine

/-- AND, ORA, EOR: combine A with the operand byte, with N and Z (R320 to R322). -/
def logic (f : Byte → Byte → Byte) (src : Source) (s : State) : Access Timing :=
  (readSource src s).bind fun m s => .done { cross := m.cross } (s.setRegNZ .a (f s.a m.value))

/-- BIT: flags from A and the operand byte; A does not change (R323). -/
def testA (flags : Byte → Byte → Flags → Flags) (src : Source) (s : State) : Access Timing :=
  (readSource src s).bind fun m s => .done { cross := m.cross } (s.setFlagsP (flags s.a m.value s.p))

/-- A shift or rotate of A (R324 to R327). -/
def shiftA (f : Byte → Flags → Byte × Flags) (s : State) : Access Timing :=
  registerOnly (fun s => { s with a := (f s.a s.p).1, p := (f s.a s.p).2 }) s

/-- A shift or rotate of the byte at a place (R324 to R327). -/
def shiftMem (f : Byte → Flags → Byte × Flags) (place : Place) (s : State) : Access Timing :=
  modifyFlagsFirst place (fun s m => f m s.p) s

/-- TSB and TRB: Z from A and the byte, then the byte changed by A (R328, R329). -/
def testAndChange (f : Byte → Byte → Byte) (place : Place) (s : State) : Access Timing :=
  modifyFlagsFirst place (fun s m => (f s.a m, testZero s.a m s.p)) s

/-- RMBn and SMBn: a page-zero byte changed, no flags (R330, R331). -/
def changeBits (f : Byte → Byte) (z : Byte) (s : State) : Access Timing :=
  modifyFlagsLast (.zp z) f (fun _ p => p) s

/-- `AND ($nn,X)` (R320). -/
def execAndIzx (z : Byte) (s : State) : Host.Outcome State Fault Refusal :=
  instruction (.andIzx z) (logic (fun a m => a &&& m) (.mem (.izx z))) s

/-- `AND $nn` (R320). -/
def execAndZp (z : Byte) (s : State) : Host.Outcome State Fault Refusal :=
  instruction (.andZp z) (logic (fun a m => a &&& m) (.mem (.zp z))) s

/-- `AND #$nn` (R320). -/
def execAndImm (v : Byte) (s : State) : Host.Outcome State Fault Refusal :=
  instruction (.andImm v) (logic (fun a m => a &&& m) (.imm v)) s

/-- `AND $nnnn` (R320). -/
def execAndAbs (addr : Addr) (s : State) : Host.Outcome State Fault Refusal :=
  instruction (.andAbs addr) (logic (fun a m => a &&& m) (.mem (.abs addr))) s

/-- `AND ($nn),Y` (R320). -/
def execAndIzy (z : Byte) (s : State) : Host.Outcome State Fault Refusal :=
  instruction (.andIzy z) (logic (fun a m => a &&& m) (.mem (.izy z))) s

/-- `AND ($nn)` (R320). -/
def execAndIzp (z : Byte) (s : State) : Host.Outcome State Fault Refusal :=
  instruction (.andIzp z) (logic (fun a m => a &&& m) (.mem (.izp z))) s

/-- `AND $nn,X` (R320). -/
def execAndZpx (z : Byte) (s : State) : Host.Outcome State Fault Refusal :=
  instruction (.andZpx z) (logic (fun a m => a &&& m) (.mem (.zpx z))) s

/-- `AND $nnnn,Y` (R320). -/
def execAndAby (addr : Addr) (s : State) : Host.Outcome State Fault Refusal :=
  instruction (.andAby addr) (logic (fun a m => a &&& m) (.mem (.aby addr))) s

/-- `AND $nnnn,X` (R320). -/
def execAndAbx (addr : Addr) (s : State) : Host.Outcome State Fault Refusal :=
  instruction (.andAbx addr) (logic (fun a m => a &&& m) (.mem (.abx addr))) s

/-- `ORA ($nn,X)` (R321). -/
def execOraIzx (z : Byte) (s : State) : Host.Outcome State Fault Refusal :=
  instruction (.oraIzx z) (logic (fun a m => a ||| m) (.mem (.izx z))) s

/-- `ORA $nn` (R321). -/
def execOraZp (z : Byte) (s : State) : Host.Outcome State Fault Refusal :=
  instruction (.oraZp z) (logic (fun a m => a ||| m) (.mem (.zp z))) s

/-- `ORA #$nn` (R321). -/
def execOraImm (v : Byte) (s : State) : Host.Outcome State Fault Refusal :=
  instruction (.oraImm v) (logic (fun a m => a ||| m) (.imm v)) s

/-- `ORA $nnnn` (R321). -/
def execOraAbs (addr : Addr) (s : State) : Host.Outcome State Fault Refusal :=
  instruction (.oraAbs addr) (logic (fun a m => a ||| m) (.mem (.abs addr))) s

/-- `ORA ($nn),Y` (R321). -/
def execOraIzy (z : Byte) (s : State) : Host.Outcome State Fault Refusal :=
  instruction (.oraIzy z) (logic (fun a m => a ||| m) (.mem (.izy z))) s

/-- `ORA ($nn)` (R321). -/
def execOraIzp (z : Byte) (s : State) : Host.Outcome State Fault Refusal :=
  instruction (.oraIzp z) (logic (fun a m => a ||| m) (.mem (.izp z))) s

/-- `ORA $nn,X` (R321). -/
def execOraZpx (z : Byte) (s : State) : Host.Outcome State Fault Refusal :=
  instruction (.oraZpx z) (logic (fun a m => a ||| m) (.mem (.zpx z))) s

/-- `ORA $nnnn,Y` (R321). -/
def execOraAby (addr : Addr) (s : State) : Host.Outcome State Fault Refusal :=
  instruction (.oraAby addr) (logic (fun a m => a ||| m) (.mem (.aby addr))) s

/-- `ORA $nnnn,X` (R321). -/
def execOraAbx (addr : Addr) (s : State) : Host.Outcome State Fault Refusal :=
  instruction (.oraAbx addr) (logic (fun a m => a ||| m) (.mem (.abx addr))) s

/-- `EOR ($nn,X)` (R322). -/
def execEorIzx (z : Byte) (s : State) : Host.Outcome State Fault Refusal :=
  instruction (.eorIzx z) (logic (fun a m => a ^^^ m) (.mem (.izx z))) s

/-- `EOR $nn` (R322). -/
def execEorZp (z : Byte) (s : State) : Host.Outcome State Fault Refusal :=
  instruction (.eorZp z) (logic (fun a m => a ^^^ m) (.mem (.zp z))) s

/-- `EOR #$nn` (R322). -/
def execEorImm (v : Byte) (s : State) : Host.Outcome State Fault Refusal :=
  instruction (.eorImm v) (logic (fun a m => a ^^^ m) (.imm v)) s

/-- `EOR $nnnn` (R322). -/
def execEorAbs (addr : Addr) (s : State) : Host.Outcome State Fault Refusal :=
  instruction (.eorAbs addr) (logic (fun a m => a ^^^ m) (.mem (.abs addr))) s

/-- `EOR ($nn),Y` (R322). -/
def execEorIzy (z : Byte) (s : State) : Host.Outcome State Fault Refusal :=
  instruction (.eorIzy z) (logic (fun a m => a ^^^ m) (.mem (.izy z))) s

/-- `EOR ($nn)` (R322). -/
def execEorIzp (z : Byte) (s : State) : Host.Outcome State Fault Refusal :=
  instruction (.eorIzp z) (logic (fun a m => a ^^^ m) (.mem (.izp z))) s

/-- `EOR $nn,X` (R322). -/
def execEorZpx (z : Byte) (s : State) : Host.Outcome State Fault Refusal :=
  instruction (.eorZpx z) (logic (fun a m => a ^^^ m) (.mem (.zpx z))) s

/-- `EOR $nnnn,Y` (R322). -/
def execEorAby (addr : Addr) (s : State) : Host.Outcome State Fault Refusal :=
  instruction (.eorAby addr) (logic (fun a m => a ^^^ m) (.mem (.aby addr))) s

/-- `EOR $nnnn,X` (R322). -/
def execEorAbx (addr : Addr) (s : State) : Host.Outcome State Fault Refusal :=
  instruction (.eorAbx addr) (logic (fun a m => a ^^^ m) (.mem (.abx addr))) s

/-- `BIT $nn` (R323). -/
def execBitZp (z : Byte) (s : State) : Host.Outcome State Fault Refusal :=
  instruction (.bitZp z) (testA testBits (.mem (.zp z))) s

/-- `BIT $nnnn` (R323). -/
def execBitAbs (addr : Addr) (s : State) : Host.Outcome State Fault Refusal :=
  instruction (.bitAbs addr) (testA testBits (.mem (.abs addr))) s

/-- `BIT $nn,X` (R323). -/
def execBitZpx (z : Byte) (s : State) : Host.Outcome State Fault Refusal :=
  instruction (.bitZpx z) (testA testBits (.mem (.zpx z))) s

/-- `BIT $nnnn,X` (R323). -/
def execBitAbx (addr : Addr) (s : State) : Host.Outcome State Fault Refusal :=
  instruction (.bitAbx addr) (testA testBits (.mem (.abx addr))) s

/-- `BIT #$nn` (R323). -/
def execBitImm (v : Byte) (s : State) : Host.Outcome State Fault Refusal :=
  instruction (.bitImm v) (testA testZero (.imm v)) s

/-- `ASL $nn` (R324). -/
def execAslZp (z : Byte) (s : State) : Host.Outcome State Fault Refusal :=
  instruction (.aslZp z) (shiftMem shiftLeft (.zp z)) s

/-- `ASL A` (R324). -/
def execAslAcc (s : State) : Host.Outcome State Fault Refusal :=
  instruction .aslAcc (shiftA shiftLeft) s

/-- `ASL $nnnn` (R324). -/
def execAslAbs (addr : Addr) (s : State) : Host.Outcome State Fault Refusal :=
  instruction (.aslAbs addr) (shiftMem shiftLeft (.abs addr)) s

/-- `ASL $nn,X` (R324). -/
def execAslZpx (z : Byte) (s : State) : Host.Outcome State Fault Refusal :=
  instruction (.aslZpx z) (shiftMem shiftLeft (.zpx z)) s

/-- `ASL $nnnn,X` (R324). -/
def execAslAbx (addr : Addr) (s : State) : Host.Outcome State Fault Refusal :=
  instruction (.aslAbx addr) (shiftMem shiftLeft (.abx addr)) s

/-- `LSR $nn` (R325). -/
def execLsrZp (z : Byte) (s : State) : Host.Outcome State Fault Refusal :=
  instruction (.lsrZp z) (shiftMem shiftRight (.zp z)) s

/-- `LSR A` (R325). -/
def execLsrAcc (s : State) : Host.Outcome State Fault Refusal :=
  instruction .lsrAcc (shiftA shiftRight) s

/-- `LSR $nnnn` (R325). -/
def execLsrAbs (addr : Addr) (s : State) : Host.Outcome State Fault Refusal :=
  instruction (.lsrAbs addr) (shiftMem shiftRight (.abs addr)) s

/-- `LSR $nn,X` (R325). -/
def execLsrZpx (z : Byte) (s : State) : Host.Outcome State Fault Refusal :=
  instruction (.lsrZpx z) (shiftMem shiftRight (.zpx z)) s

/-- `LSR $nnnn,X` (R325). -/
def execLsrAbx (addr : Addr) (s : State) : Host.Outcome State Fault Refusal :=
  instruction (.lsrAbx addr) (shiftMem shiftRight (.abx addr)) s

/-- `ROL $nn` (R326). -/
def execRolZp (z : Byte) (s : State) : Host.Outcome State Fault Refusal :=
  instruction (.rolZp z) (shiftMem rotateLeft (.zp z)) s

/-- `ROL A` (R326). -/
def execRolAcc (s : State) : Host.Outcome State Fault Refusal :=
  instruction .rolAcc (shiftA rotateLeft) s

/-- `ROL $nnnn` (R326). -/
def execRolAbs (addr : Addr) (s : State) : Host.Outcome State Fault Refusal :=
  instruction (.rolAbs addr) (shiftMem rotateLeft (.abs addr)) s

/-- `ROL $nn,X` (R326). -/
def execRolZpx (z : Byte) (s : State) : Host.Outcome State Fault Refusal :=
  instruction (.rolZpx z) (shiftMem rotateLeft (.zpx z)) s

/-- `ROL $nnnn,X` (R326). -/
def execRolAbx (addr : Addr) (s : State) : Host.Outcome State Fault Refusal :=
  instruction (.rolAbx addr) (shiftMem rotateLeft (.abx addr)) s

/-- `ROR $nn` (R327). -/
def execRorZp (z : Byte) (s : State) : Host.Outcome State Fault Refusal :=
  instruction (.rorZp z) (shiftMem rotateRight (.zp z)) s

/-- `ROR A` (R327). -/
def execRorAcc (s : State) : Host.Outcome State Fault Refusal :=
  instruction .rorAcc (shiftA rotateRight) s

/-- `ROR $nnnn` (R327). -/
def execRorAbs (addr : Addr) (s : State) : Host.Outcome State Fault Refusal :=
  instruction (.rorAbs addr) (shiftMem rotateRight (.abs addr)) s

/-- `ROR $nn,X` (R327). -/
def execRorZpx (z : Byte) (s : State) : Host.Outcome State Fault Refusal :=
  instruction (.rorZpx z) (shiftMem rotateRight (.zpx z)) s

/-- `ROR $nnnn,X` (R327). -/
def execRorAbx (addr : Addr) (s : State) : Host.Outcome State Fault Refusal :=
  instruction (.rorAbx addr) (shiftMem rotateRight (.abx addr)) s

/-- `TSB $nn` (R328). -/
def execTsbZp (z : Byte) (s : State) : Host.Outcome State Fault Refusal :=
  instruction (.tsbZp z) (testAndChange (fun a m => m ||| a) (.zp z)) s

/-- `TSB $nnnn` (R328). -/
def execTsbAbs (addr : Addr) (s : State) : Host.Outcome State Fault Refusal :=
  instruction (.tsbAbs addr) (testAndChange (fun a m => m ||| a) (.abs addr)) s

/-- `TRB $nn` (R329). -/
def execTrbZp (z : Byte) (s : State) : Host.Outcome State Fault Refusal :=
  instruction (.trbZp z) (testAndChange (fun a m => m &&& ~~~a) (.zp z)) s

/-- `TRB $nnnn` (R329). -/
def execTrbAbs (addr : Addr) (s : State) : Host.Outcome State Fault Refusal :=
  instruction (.trbAbs addr) (testAndChange (fun a m => m &&& ~~~a) (.abs addr)) s

/-- `RMB0 $nn` (R330). -/
def execRmb0 (z : Byte) (s : State) : Host.Outcome State Fault Refusal :=
  instruction (.rmb0 z) (changeBits (fun m => m &&& ~~~bitMask 0) z) s

/-- `RMB1 $nn` (R330). -/
def execRmb1 (z : Byte) (s : State) : Host.Outcome State Fault Refusal :=
  instruction (.rmb1 z) (changeBits (fun m => m &&& ~~~bitMask 1) z) s

/-- `RMB2 $nn` (R330). -/
def execRmb2 (z : Byte) (s : State) : Host.Outcome State Fault Refusal :=
  instruction (.rmb2 z) (changeBits (fun m => m &&& ~~~bitMask 2) z) s

/-- `RMB3 $nn` (R330). -/
def execRmb3 (z : Byte) (s : State) : Host.Outcome State Fault Refusal :=
  instruction (.rmb3 z) (changeBits (fun m => m &&& ~~~bitMask 3) z) s

/-- `RMB4 $nn` (R330). -/
def execRmb4 (z : Byte) (s : State) : Host.Outcome State Fault Refusal :=
  instruction (.rmb4 z) (changeBits (fun m => m &&& ~~~bitMask 4) z) s

/-- `RMB5 $nn` (R330). -/
def execRmb5 (z : Byte) (s : State) : Host.Outcome State Fault Refusal :=
  instruction (.rmb5 z) (changeBits (fun m => m &&& ~~~bitMask 5) z) s

/-- `RMB6 $nn` (R330). -/
def execRmb6 (z : Byte) (s : State) : Host.Outcome State Fault Refusal :=
  instruction (.rmb6 z) (changeBits (fun m => m &&& ~~~bitMask 6) z) s

/-- `RMB7 $nn` (R330). -/
def execRmb7 (z : Byte) (s : State) : Host.Outcome State Fault Refusal :=
  instruction (.rmb7 z) (changeBits (fun m => m &&& ~~~bitMask 7) z) s

/-- `SMB0 $nn` (R331). -/
def execSmb0 (z : Byte) (s : State) : Host.Outcome State Fault Refusal :=
  instruction (.smb0 z) (changeBits (fun m => m ||| bitMask 0) z) s

/-- `SMB1 $nn` (R331). -/
def execSmb1 (z : Byte) (s : State) : Host.Outcome State Fault Refusal :=
  instruction (.smb1 z) (changeBits (fun m => m ||| bitMask 1) z) s

/-- `SMB2 $nn` (R331). -/
def execSmb2 (z : Byte) (s : State) : Host.Outcome State Fault Refusal :=
  instruction (.smb2 z) (changeBits (fun m => m ||| bitMask 2) z) s

/-- `SMB3 $nn` (R331). -/
def execSmb3 (z : Byte) (s : State) : Host.Outcome State Fault Refusal :=
  instruction (.smb3 z) (changeBits (fun m => m ||| bitMask 3) z) s

/-- `SMB4 $nn` (R331). -/
def execSmb4 (z : Byte) (s : State) : Host.Outcome State Fault Refusal :=
  instruction (.smb4 z) (changeBits (fun m => m ||| bitMask 4) z) s

/-- `SMB5 $nn` (R331). -/
def execSmb5 (z : Byte) (s : State) : Host.Outcome State Fault Refusal :=
  instruction (.smb5 z) (changeBits (fun m => m ||| bitMask 5) z) s

/-- `SMB6 $nn` (R331). -/
def execSmb6 (z : Byte) (s : State) : Host.Outcome State Fault Refusal :=
  instruction (.smb6 z) (changeBits (fun m => m ||| bitMask 6) z) s

/-- `SMB7 $nn` (R331). -/
def execSmb7 (z : Byte) (s : State) : Host.Outcome State Fault Refusal :=
  instruction (.smb7 z) (changeBits (fun m => m ||| bitMask 7) z) s

end Sys2Proof.Machine
end

