-- ==== Sys2Proof/Machine/Stack.lean ====
section
/-! DEFINITION. Stack instructions (42_stack.md): the shared operations, then the meaning of each row of the table. -/

namespace Sys2Proof.Machine

/-- Push a register (R261, R263, R264). -/
def pushReg (r : Reg) (s : State) : Access Timing := (push (s.reg r) s).bind fun _ s => .done {} s

/-- Push the status byte with bits 5 and 4 set (R262). -/
def pushFlags (s : State) : Access Timing := (push (pbyte s.p true) s).bind fun _ s => .done {} s

/-- Pull a register, with N and Z (R265, R267, R268). -/
def pullReg (r : Reg) (s : State) : Access Timing := (pull s).bind fun v s => .done {} (s.setRegNZ r v)

/-- Pull the flags (R266). -/
def pullFlags (s : State) : Access Timing := (pull s).bind fun v s => .done {} (s.setFlagsP (flagsOfByte v))

/-- `PHA` (R261). -/
def execPha (s : State) : Host.Outcome State Fault Refusal :=
  instruction .pha (pushReg .a) s

/-- `PHP` (R262). -/
def execPhp (s : State) : Host.Outcome State Fault Refusal :=
  instruction .php pushFlags s

/-- `PHX` (R263). -/
def execPhx (s : State) : Host.Outcome State Fault Refusal :=
  instruction .phx (pushReg .x) s

/-- `PHY` (R264). -/
def execPhy (s : State) : Host.Outcome State Fault Refusal :=
  instruction .phy (pushReg .y) s

/-- `PLA` (R265). -/
def execPla (s : State) : Host.Outcome State Fault Refusal :=
  instruction .pla (pullReg .a) s

/-- `PLP` (R266). -/
def execPlp (s : State) : Host.Outcome State Fault Refusal :=
  instruction .plp pullFlags s

/-- `PLX` (R267). -/
def execPlx (s : State) : Host.Outcome State Fault Refusal :=
  instruction .plx (pullReg .x) s

/-- `PLY` (R268). -/
def execPly (s : State) : Host.Outcome State Fault Refusal :=
  instruction .ply (pullReg .y) s

end Sys2Proof.Machine
end

