-- ==== Sys2Proof/Machine/Engine.lean ====
section
/-! DEFINITION. The execution loop (40_pipeline.md R170 to R179): fetching an instruction, the invalid-opcode policy, one
step of the engine, and the instruction boundary with its checks in the order of R435. -/

namespace Sys2Proof.Machine

/-- `Fetch(a)` (R15): an instruction-stream read, exempt from breakpoint evaluation (R478). -/
def fetch (a : Addr) (s : State) : Access Byte := busRead a s

/-- `n` instruction-stream bytes from `a` on, in address order modulo 65536 (R131, R171). -/
def fetchBytes : Addr → Nat → State → Access (List Byte)
  | _, 0, s => .done [] s
  | a, n + 1, s =>
    (fetch a s).bind fun b s => (fetchBytes (a + 1) n s).bind fun bs s => .done (b :: bs) s

/-- Fetch and decode the instruction at PC (R170, R172): the opcode byte, then the operand bytes its row has. An
invalid opcode fetches no operand byte. -/
def fetchInstr (s : State) : Access (Except DecodeError Instr) :=
  (fetch s.pc s).bind fun op s' =>
  match opcodeLength s.cfg.variant op with
  | none => .done (.error (.invalidOpcode op)) s'
  | some n =>
    (fetchBytes (s.pc + 1) (n - 1) s').bind fun operands s' =>
    .done ((decode s.cfg.variant (op :: operands)).map (·.1)) s'

/-- An invalid opcode at PC, by `INVALID_POLICY` (R441): strict halts with PC unchanged (R442); lenient moves PC one
byte on at a cost of 1 and changes nothing else (R443). DEDUCED (log entry 8): `skip_pc_bp` stays as well. -/
def invalidOpcode (s : State) : State :=
  match s.cfg.invalidPolicy with
  | .strict =>
    { s with ctrl := .halted .illegalOpcode, inTick := false }.emit (.halted (.halt .illegalOpcode) s.pc)
  | .lenient => { s with pc := s.pc + 1, tickCycles := s.tickCycles + 1 }

/-- The instruction at PC, fetched, decoded and performed (R170). -/
def runInstr (s : State) : Host.Outcome State Fault Refusal :=
  match fetchInstr s with
  | .outOfRange p s' => .fault (.outOfRange p (s'.haltOutOfRange s.pc p))
  | .done (.error _) s' => .next (invalidOpcode s')
  | .done (.ok i) s' => exec i s'

/-- An interrupt entry in place of an instruction: 7 cycles (R170, R433). -/
def serviceInterrupt (vector : Addr) (s : State) : Host.Outcome State Fault Refusal :=
  finish s.pc ((enterInterrupt vector s).bind fun _ s => .done () (s.complete 7))

/-- A PC breakpoint at the boundary: the engine pauses before the fetch (R477). -/
def pauseAtBreakpoint (s : State) : State :=
  { s with ctrl := .paused (some .breakpoint), skipPcBp := true, inTick := false }.emit
    (.halted (.pause .breakpoint) s.pc)

/-- The interrupt lines at this boundary (R11). DESIGN CHOICE (log entry 4): quiet past the end of the list. -/
def State.pinsNow (s : State) : Pins := s.pins.headD { nmiEdge := false, irqLine := false }

/-- The state after this boundary's lines are sampled: an NMI edge is latched (R430). -/
def State.samplePins (s : State) : State :=
  { s with pins := s.pins.tail, nmiLatch := s.nmiLatch || s.pinsNow.nmiEdge }

/-- The state after the WAI check let the engine go on (R411). -/
def State.wake (s : State) : State := { s with waiting := false }

/-- `one_step` after the lines are sampled, with the IRQ level of this boundary (R170, R435 items 5 to 9). -/
def serviceBoundary (evaluatePcBp irqLine : Bool) (s : State) : Host.Outcome State Fault Refusal :=
  if s.waiting && !(s.nmiLatch || irqLine) then
    .next { s with tickCycles := s.tickCycles + 1 }
  else if s.nmiLatch then serviceInterrupt nmiVector { s.wake with nmiLatch := false }
  else if irqLine && !s.p.i then serviceInterrupt irqVector s.wake
  else if evaluatePcBp && pcBreakpointHit s.wake then .next (pauseAtBreakpoint s.wake)
  else runInstr s.wake

/-- `one_step(evaluate_pc_bp)` (R170): a WAI wait cycle, an interrupt entry, a PC-breakpoint pause or one
instruction. -/
def oneStep (evaluatePcBp : Bool) (s : State) : Host.Outcome State Fault Refusal :=
  serviceBoundary evaluatePcBp s.pinsNow.irqLine s.samplePins

/-- The pause a halt flagged during the last instruction comes to at the boundary (R170, R476). -/
def takePendingHalt (h : PendingHalt) (s : State) : State :=
  { s with pendingHalt := none, ctrl := .paused (some h.reason), inTick := false }.emit
    (.halted (.pause h.reason) (h.address.getD s.pc))

/-- The pause a host request comes to at the boundary (R489). -/
def takePause (s : State) : State := { s with ctrl := .paused none, inTick := false }

/-- The end of a tick whose budget is met (R170, R493). -/
def endTick (s : State) : State := { s with inTick := false }.emit (.tickCompleted s.tickCycles)

/-- The start of a boundary (R170): the channel is published and a pause request is sampled.
DEDUCED (log entry 16): a sampled request is dropped. -/
def State.openBoundary (s : State) : State := { s.publish with pauseReq := false }

/-- One turn of the loop of `execute` (R170): the boundary checks in the order of R435, then one step. -/
def boundary (s : State) : Host.Outcome State Fault Refusal :=
  let t := s.openBoundary
  if s.fault.isSome || s.stopped then .next { t with inTick := false }
  else
    match s.pendingHalt with
    | some h => .next (takePendingHalt h t)
    | none =>
      if s.pauseReq then .next (takePause t)
      else if s.budget ≤ s.tickCycles then .next (endTick t)
      else oneStep (!s.skipPcBp) t

/-- `budget = floor(CLOCK_HZ * multiplier * tick_seconds)` (R492). -/
def tickBudget (clockHz : Nat) (multiplier seconds : Ratio) : Nat :=
  clockHz * multiplier.num * seconds.num / (multiplier.den * seconds.den)

/-- A tick begins: `execute` is called with its budget (R170, R492). -/
def beginTick (s : State) : State :=
  { s with inTick := true, tickCycles := 0, budget := tickBudget s.cfg.clockHz s.speed s.tickLength }

/-- The machine's own step, with no command from the host: a turn of the loop while a tick runs, the next tick while
`CTRL` is Running, and nothing while it is Stopped, Paused or Halted.
DESIGN CHOICE (log entry 5): a Running machine begins the next tick itself. -/
def engineStep (s : State) : Host.Outcome State Fault Refusal :=
  if s.inTick then boundary s
  else
    match s.ctrl with
    | .running => .next (beginTick s)
    | .stopped | .paused _ | .halted _ => .next s

end Sys2Proof.Machine
end

