-- ==== Sys2Proof/Machine/Reset.lean ====
section
/-! DEFINITION. Reset and init (70_reset_and_hazards.md R520 to R525). -/

namespace Sys2Proof.Machine

/-- The registers and switches of a cold reset (R520). -/
def State.loadDefaults (s : State) : State :=
  let r := s.cfg.resetRegs
  busReset { s with a := r.a, x := r.x, y := r.y, sp := r.sp, p := r.p }

/-- What both resets clear (R523).
DESIGN CHOICE (log entry 24): a pause request not yet sampled and the tick in progress, which R523 does not list, go with
it. -/
def State.clearRun (s : State) : State :=
  { s with
    nmiLatch := false, waiting := false, stopped := false, pendingHalt := none, skipPcBp := false
    fault := none, tickCycles := 0, inTick := false, pauseReq := false }

/-- The reset-vector read (R521): two bus reads with their switch side effects, no breakpoint evaluated. -/
def readResetVector (s : State) : Access Addr :=
  (busRead resetVector s).bind fun l s => (busRead (resetVector + 1) s).bind fun h s => .done (word16 h l) s

/-- The reset sequence up to its end: PC from the vector, `CTRL` Paused(none), the channel published (R520, R522). -/
def resetSequence (cold : Bool) (s : State) : Access Unit :=
  (readResetVector (if cold then s.loadDefaults else s).clearRun).bind fun target s =>
    .done () { s.setPc target with ctrl := .paused none }.publish

/-- `reset(cold)` (R520, R522); an out-of-range vector read halts with the event address 0xFFFC (R521). -/
def reset (cold : Bool) (s : State) : Host.Outcome State Fault Refusal :=
  finish resetVector (resetSequence cold s)

/-- The value of a hexadecimal digit, either case (D7). -/
def hexValue (c : Char) : Option Nat :=
  let n := c.toNat
  if 48 ≤ n ∧ n ≤ 57 then some (n - 48)
  else if 65 ≤ n ∧ n ≤ 70 then some (n - 55)
  else if 97 ≤ n ∧ n ≤ 102 then some (n - 87)
  else none

/-- The bytes of a string of hexadecimal digits, two a byte (R525, D7). -/
def hexBytes : List Char → Option (List Byte)
  | [] => some []
  | [_] => none
  | c :: d :: rest =>
    match hexValue c, hexValue d, hexBytes rest with
    | some h, some l, some bs => some (BitVec.ofNat 8 (16 * h + l) :: bs)
    | _, _, _ => none

/-- The bytes of a payload; `none` for a malformed hex string (R525). -/
def payloadBytes : Payload → Option (List Byte)
  | .bytes content => some content
  | .hex digits => hexBytes digits

/-- `BANK_BASE(bank)` (R10, D7). -/
def bankBaseOf (cfg : Config) (bank : Nat) : Nat := (cfg.bankBase[bank]?).getD (bank * 0x10000)

/-- The physical address and the bytes of a chunk; `none` where it makes the configuration be rejected: an unknown
bank, a malformed hex string, or a byte past `MEM_SIZE` (R525). -/
def placeChunk (cfg : Config) (c : Chunk) : Option (Nat × List Byte) :=
  match payloadBytes c.payload with
  | none => none
  | some bs =>
    let p := bankBaseOf cfg c.bank + c.addr.toNat
    if c.bank < cfg.bankCount ∧ (bs = [] ∨ p + bs.length ≤ cfg.memSize) then some (p, bs) else none

/-- Memory after the chunks, in order, a later one over an earlier one (R525); `none` where one is rejected. -/
def loadChunks (cfg : Config) : List Chunk → List Host.Cell → Option (List Host.Cell)
  | [], m => some m
  | c :: cs, m =>
    match placeChunk cfg c with
    | none => none
    | some (p, bs) => loadChunks cfg cs (Memory.writeAll cfg.initFill m p bs)

/-- The machine `init` creates before its reset: memory loaded, no breakpoint, the speed multiplier 1
(R525). DESIGN CHOICE (log entry 6). -/
def freshMachine (cfg : Config) (m : List Host.Cell) (s : State) : State :=
  { s with cfg := cfg, mem := m, bpDense := [], bpSparse := [], speed := { num := 1, den := 1 } }

/-- `init(machineConfig)` (R486, R525): memory is loaded, a cold reset follows, `CTRL` becomes Stopped. A rejected
configuration changes nothing. DEDUCED (log entry 13). -/
def init (cfg : Config) (s : State) : Host.Outcome State Fault Refusal :=
  match loadChunks cfg cfg.chunks [] with
  | none => .next s
  | some m =>
    finish resetVector <|
      (resetSequence true (freshMachine cfg m s)).bind fun _ s => .done () { s with ctrl := .stopped }

end Sys2Proof.Machine
end

