-- ==== Sys2Proof/Machine/Controller.lean ====
section
/-! DEFINITION. The execution controller and the host's edits (60_exceptions.md R485 to R496). -/

namespace Sys2Proof.Machine

/-- May the host edit registers and memory now? Stopped, Paused or Halted (R89, R496). -/
def State.editable (s : State) : Bool := s.ctrl != .running

/-- `run(optionalStartAddress)` (R488): no effect in Running or Halted. -/
def hostRun (start : Option Addr) (s : State) : State :=
  match s.ctrl with
  | .stopped | .paused _ =>
    match start with
    | none => { s with ctrl := .running }
    | some a => { s with ctrl := .running, pc := a, skipPcBp := false }
  | .running | .halted _ => s

/-- `pause()` (R489): a request while Running, taken at the next boundary; no effect otherwise. -/
def hostPause (s : State) : State :=
  match s.ctrl with
  | .running => { s with pauseReq := true }
  | .stopped | .paused _ | .halted _ => s

/-- The state a step ends in (R490), from the state its `one_step` left: Halted stays, a pending halt pauses with its
reason, else Paused(step). The channel is published, and `halted` and `tickCompleted` are emitted; a Halted state's
own event is already emitted, and a faulted step has charged no cycle. DEDUCED (log entry 12). -/
def closeStep (s : State) : State :=
  let t := s.publish
  let done := Event.tickCompleted s.tickCycles
  match s.ctrl with
  | .halted _ => t.emit done
  | .stopped | .running | .paused _ =>
    match s.pendingHalt with
    | some h =>
      ({ t with pendingHalt := none, ctrl := .paused (some h.reason) }.emit (.halted (.pause h.reason) s.pc)).emit done
    | none => ({ t with ctrl := .paused (some .step) }.emit (.halted (.pause .step) s.pc)).emit done

/-- Close a step whatever it came to (R490): one that ends in a fault publishes the channel and reports its tick in the
halted state inside the fault. -/
def closeOutcome : Host.Outcome State Fault Refusal → Host.Outcome State Fault Refusal
  | .next t => .next (closeStep t)
  | .fault (.outOfRange p h) => .fault (.outOfRange p (closeStep h))
  | .refused r => .refused r

/-- `step()` (R490): from Paused, one `one_step` with no PC breakpoint evaluated, whatever the budget. -/
def hostStep (s : State) : Host.Outcome State Fault Refusal :=
  match s.ctrl with
  | .paused _ => closeOutcome (oneStep false { s with tickCycles := 0 })
  | .stopped | .running | .halted _ => .next s

/-- A host write of one byte of the register channel (R496): the named register is set at once. Offset 4 writes P by
R34; offsets 5 and 6 change one byte of PC and clear `skip_pc_bp`.
DEDUCED (log entry 14): the channel itself shows the write at the next publication (R45, R495). -/
def writeChannel (offset : Fin 7) (v : Byte) (s : State) : State :=
  match offset with
  | 0 => { s with a := v }
  | 1 => { s with x := v }
  | 2 => { s with y := v }
  | 3 => { s with sp := v }
  | 4 => { s with p := flagsOfByte v }
  | 5 => { s with pc := word16 (hi s.pc) v, skipPcBp := false }
  | 6 => { s with pc := word16 v (lo s.pc), skipPcBp := false }

/-- Carry out a command of the host (R485). -/
def perform (c : Command) (s : State) : Host.Outcome State Fault Refusal :=
  match c with
  | .init cfg => init cfg s
  | .reset cold => reset cold s
  | .run start => .next (hostRun start s)
  | .pause => .next (hostPause s)
  | .step => hostStep s
  | .setSpeed m => .next { s with speed := m }
  | .setTickLength d => .next { s with tickLength := d }
  | .addBreakpoint d => .next (addBreakpoint d s)
  | .removeBreakpoint d => .next (removeBreakpoint d s)
  | .clearBreakpoints => .next (bpClear s)
  | .writeChannel offset v =>
    if s.editable then .next (writeChannel offset v s) else .refused .hostEditWhileRunning
  | .debugWrite a v => if s.editable then .next (debugWrite a v s) else .refused .hostEditWhileRunning

/-- `init` and `reset` act between ticks (R435). DEDUCED (log entry 11): they wait for the end of the tick. -/
def betweenTicks : Command → Bool
  | .init _ | .reset _ => true
  | _ => false

/-- One step of the machine with its host: the next command that has arrived is carried out; where none has, or it
must wait for the tick in progress to end, the engine takes its own step (R485, R170). -/
def hostedStep (s : State) : Host.Outcome State Fault Refusal :=
  match s.commands with
  | [] => engineStep s
  | .later :: rest => engineStep { s with commands := rest }
  | .now c :: rest => if s.inTick && betweenTicks c then engineStep s else perform c { s with commands := rest }

/-- Store bytes where the fetch from `a` will read them, with the switches each of those reads leaves (R103, R532). -/
def placeBytes : List Byte → Addr → SwitchState → State → State
  | [], _, _, s => s
  | b :: bs, a, sw, s =>
    let p := physAddr s.cfg sw .read a
    if p < s.cfg.memSize then
      placeBytes bs (a + 1) (switchDecode s.cfg sw .read a b) (s.setMemByte p b)
    else s

/-- The state in which the engine's next step fetches and runs the instruction at PC: Running, in a tick whose budget
is not met, no command, interrupt, pause, halt, wait or breakpoint before the fetch. -/
def State.readyToFetch (s : State) : State :=
  { s with
    ctrl := .running, inTick := true, budget := s.tickCycles + 1, pauseReq := false, commands := [], pins := []
    fault := none, stopped := false, waiting := false, nmiLatch := false, pendingHalt := none, skipPcBp := true }

end Sys2Proof.Machine
end

