-- ==== Sys2Proof/Machine/Step.lean ====
section
/-! DEFINITION. One step of the machine, and the state that fetches a given instruction next. -/

namespace Sys2Proof.Machine

/-- One step: a host command, the start of a tick, or one turn of the engine's loop (R170, R485). -/
def step (s : State) : Host.Outcome State Fault Refusal := hostedStep s

/-- The state with the instruction of a table word stored where the next step fetches it. The engine is set running
in a tick, since it executes nothing while it is Paused. DESIGN CHOICE (log entry 7). -/
def State.withFetchWord (s : State) (nbits w : Nat) : State :=
  placeBytes (tableBytes nbits w) s.pc s.sw s.readyToFetch

end Sys2Proof.Machine
end

