-- ==== Sys2Proof/Machine/Disassembler.lean ====
section
/-! DEFINITION. The disassembler over a side-effect-free accessor (60_exceptions.md R500 to R503). A line holds the
decoded instruction; its text is in AssemblerText. -/

namespace Sys2Proof.Machine

/-- A disassembled line (R500): `instr` is `none` for the distinguished invalid line (R152). -/
structure Line where
  address : Addr
  raw : List Byte
  instr : Option Instr
  length : Nat
  cycles : Nat
  deriving DecidableEq, Repr

/-- The bytes an accessor gives from an address on; `none` where one read is refused (R88). -/
def readBytes (readByte : Addr → Option Byte) : Addr → Nat → Option (List Byte)
  | _, 0 => some []
  | a, n + 1 =>
    match readByte a, readBytes readByte (a + 1) n with
    | some b, some bs => some (b :: bs)
    | _, _ => none

/-- `decodeOne(readByte, address)` (R500): an opcode outside the table gives a line of length 1 and cost 1;
`none` only where the accessor refuses a byte. -/
def decodeOne (v : Variant) (readByte : Addr → Option Byte) (a : Addr) : Option Line :=
  match readByte a with
  | none => none
  | some op =>
    match opcodeLength v op with
    | none => some { address := a, raw := [op], instr := none, length := 1, cycles := 1 }
    | some n =>
      match readBytes readByte (a + 1) (n - 1) with
      | none => none
      | some operands =>
        match decode v (op :: operands) with
        | .ok (i, _) =>
          some { address := a, raw := op :: operands, instr := some i, length := n, cycles := i.baseCycles v }
        | .error _ => none

/-- The bound of a disassembled range (R501): an address ceiling or a number of instructions. -/
inductive RangeBound where
  | ceiling (address : Addr)
  | count (instructions : Nat)
  deriving DecidableEq, Repr

/-- At most `n` lines from `a` on, each after the one before it modulo 65536, while lines start within the next `left`
bytes (`none`: no such limit). -/
def lines (v : Variant) (readByte : Addr → Option Byte) : Nat → Option Nat → Addr → List Line
  | 0, _, _ => []
  | n + 1, left, a =>
    match left, decodeOne v readByte a with
    | some 0, _ => []
    | _, none => []
    | _, some l => l :: lines v readByte n (left.map (· - l.length)) (a + BitVec.ofNat 16 l.length)

/-- `disassembleRange` (R501): with a ceiling, the lines that start below it.
DESIGN CHOICE (log entry 17): a ceiling at or below the start gives no line, since the range does not go on past 0xFFFF
to reach it, and a refused byte ends the list. -/
def disassembleRange (v : Variant) (readByte : Addr → Option Byte) (start : Addr) : RangeBound → List Line
  | .ceiling c => lines v readByte (c.toNat - start.toNat) (some (c.toNat - start.toNat)) start
  | .count n => lines v readByte n none start

/-- Decode forward from `a` over exactly `dist` bytes (R502): the address of the last instruction, or `none` where the
stream meets an invalid opcode or passes the target.
DESIGN CHOICE (log entry 17): `none` also where the stream meets a byte the accessor refuses; and the bytes are counted,
not the addresses compared, so that with a distance of 65536 or more the stream may go through the target and land a lap
later. -/
def landsOn (v : Variant) (readByte : Addr → Option Byte) : Nat → Nat → Addr → Option Addr
  | 0, _, _ => none
  | fuel + 1, dist, a =>
    match decodeOne v readByte a with
    | none => none
    | some l =>
      if l.instr.isNone then none
      else if l.length = dist then some a
      else if l.length < dist then landsOn v readByte fuel (dist - l.length) (a + BitVec.ofNat 16 l.length)
      else none

/-- The first of the distances `d`, `d + 1`, … (`n` of them) whose candidate lands on the target (R502). -/
def firstLanding (v : Variant) (readByte : Addr → Option Byte) (target : Addr) : Nat → Nat → Option Addr
  | 0, _ => none
  | n + 1, d =>
    match landsOn v readByte d d (target - BitVec.ofNat 16 d) with
    | some a => some a
    | none => firstLanding v readByte target n (d + 1)

/-- Backward resynchronisation (R502, R503): the instruction before a target; the target less 1, unverified, where no
candidate in the window lands. -/
def previousInstr (v : Variant) (readByte : Addr → Option Byte) (window : Nat) (target : Addr) : Addr :=
  (firstLanding v readByte target window 1).getD (target - 1)

/-- The instruction before a target as the machine's tooling sees it, over `debugRead` (R500, R502). -/
def State.previousInstr (s : State) (target : Addr) : Addr :=
  Machine.previousInstr s.cfg.variant (debugRead s) s.cfg.resyncWindow target

end Sys2Proof.Machine
end

