-- ==== Sys2Proof/Machine/AssemblerText.lean ====
section
/-! DEFINITION. The assembler text of a disassembled line (30_encoding.md R131, R150, R152). R8 puts the text outside
the scope; it is given here because the spec writes it out. -/

namespace Sys2Proof.Machine

/-- The mnemonic as R150 writes it. -/
def mnemonicText : Mnemonic → String
  | .brk => "BRK"
  | .ora => "ORA"
  | .tsb => "TSB"
  | .asl => "ASL"
  | .rmb0 => "RMB0"
  | .php => "PHP"
  | .bbr0 => "BBR0"
  | .bpl => "BPL"
  | .trb => "TRB"
  | .rmb1 => "RMB1"
  | .clc => "CLC"
  | .inc => "INC"
  | .bbr1 => "BBR1"
  | .jsr => "JSR"
  | .and => "AND"
  | .bit => "BIT"
  | .rol => "ROL"
  | .rmb2 => "RMB2"
  | .plp => "PLP"
  | .bbr2 => "BBR2"
  | .bmi => "BMI"
  | .rmb3 => "RMB3"
  | .sec => "SEC"
  | .dec => "DEC"
  | .bbr3 => "BBR3"
  | .rti => "RTI"
  | .eor => "EOR"
  | .lsr => "LSR"
  | .rmb4 => "RMB4"
  | .pha => "PHA"
  | .jmp => "JMP"
  | .bbr4 => "BBR4"
  | .bvc => "BVC"
  | .rmb5 => "RMB5"
  | .cli => "CLI"
  | .phy => "PHY"
  | .bbr5 => "BBR5"
  | .rts => "RTS"
  | .adc => "ADC"
  | .stz => "STZ"
  | .ror => "ROR"
  | .rmb6 => "RMB6"
  | .pla => "PLA"
  | .bbr6 => "BBR6"
  | .bvs => "BVS"
  | .rmb7 => "RMB7"
  | .sei => "SEI"
  | .ply => "PLY"
  | .bbr7 => "BBR7"
  | .bra => "BRA"
  | .sta => "STA"
  | .sty => "STY"
  | .stx => "STX"
  | .smb0 => "SMB0"
  | .dey => "DEY"
  | .txa => "TXA"
  | .bbs0 => "BBS0"
  | .bcc => "BCC"
  | .smb1 => "SMB1"
  | .tya => "TYA"
  | .txs => "TXS"
  | .bbs1 => "BBS1"
  | .ldy => "LDY"
  | .lda => "LDA"
  | .ldx => "LDX"
  | .smb2 => "SMB2"
  | .tay => "TAY"
  | .tax => "TAX"
  | .bbs2 => "BBS2"
  | .bcs => "BCS"
  | .smb3 => "SMB3"
  | .clv => "CLV"
  | .tsx => "TSX"
  | .bbs3 => "BBS3"
  | .cpy => "CPY"
  | .cmp => "CMP"
  | .smb4 => "SMB4"
  | .iny => "INY"
  | .dex => "DEX"
  | .wai => "WAI"
  | .bbs4 => "BBS4"
  | .bne => "BNE"
  | .smb5 => "SMB5"
  | .cld => "CLD"
  | .phx => "PHX"
  | .stp => "STP"
  | .bbs5 => "BBS5"
  | .cpx => "CPX"
  | .sbc => "SBC"
  | .smb6 => "SMB6"
  | .inx => "INX"
  | .nop => "NOP"
  | .bbs6 => "BBS6"
  | .beq => "BEQ"
  | .smb7 => "SMB7"
  | .sed => "SED"
  | .plx => "PLX"
  | .bbs7 => "BBS7"

/-- An upper-case hexadecimal digit. -/
def hexDigit (n : Nat) : Char := if n < 10 then Char.ofNat (48 + n) else Char.ofNat (55 + n)

/-- Two hexadecimal digits (R150). -/
def hexByteText (b : Byte) : String := String.ofList [hexDigit (b.toNat / 16), hexDigit (b.toNat % 16)]

/-- Four hexadecimal digits (R150). -/
def hexAddrText (a : Addr) : String := hexByteText (hi a) ++ hexByteText (lo a)

/-- The operand syntax of a place (R131). -/
def placeText : Place → String
  | .zp z => "$" ++ hexByteText z
  | .zpx z => "$" ++ hexByteText z ++ ",X"
  | .zpy z => "$" ++ hexByteText z ++ ",Y"
  | .izx z => "($" ++ hexByteText z ++ ",X)"
  | .izy z => "($" ++ hexByteText z ++ "),Y"
  | .izp z => "($" ++ hexByteText z ++ ")"
  | .abs a => "$" ++ hexAddrText a
  | .abx a => "$" ++ hexAddrText a ++ ",X"
  | .aby a => "$" ++ hexAddrText a ++ ",Y"

/-- The operand syntax of an operand (R131); a branch is written with its target, `next` being the address after the
instruction. -/
def operandText (next : Addr) : Operand → String
  | .imp => ""
  | .acc => "A"
  | .imm v => "#$" ++ hexByteText v
  | .mem p => placeText p
  | .ind a => "($" ++ hexAddrText a ++ ")"
  | .iax a => "($" ++ hexAddrText a ++ ",X)"
  | .rel r => "$" ++ hexAddrText (next + sext16 r)
  | .zpr z r => "$" ++ hexByteText z ++ ",$" ++ hexAddrText (next + sext16 r)

/-- The text of a line: the mnemonic and the operand, or `???` for an invalid opcode (R150, R152). -/
def lineText (l : Line) : String :=
  match l.instr with
  | none => "???"
  | some i =>
    let operand := operandText (l.address + BitVec.ofNat 16 l.length) i.operand
    if operand = "" then mnemonicText i.mnemonic else mnemonicText i.mnemonic ++ " " ++ operand

end Sys2Proof.Machine
end

