-- ==== Sys2Proof/WellFormed.lean ====
section
/-! DEFINITION. Well-formed instructions. The constructors of `Instr` carry exactly the operands of their rows, so one
check is left: the variant must have the instruction (R133). -/

namespace Sys2Proof

/-- The variant has the instruction: its availability class is enabled (R133, R145). -/
def Instr.wf (v : Variant) (i : Instr) : Bool := v.enables i.desc.availability

end Sys2Proof
end

