-- ==== Sys2Proof/Safety.lean ====
section
/-! DEFINITION. What the statements are made of: the conditions under which an access completes, what an instruction
reads and stores, the instruction classes of the spec's tables, and the machine's invariant. -/

namespace Sys2Proof

open Sys2Proof.Machine

/-- `BANK_MAP` keeps every address below `MEM_SIZE`, whatever the switches (R526 item 2): no access is out of range. -/
def Config.mapsInRange (cfg : Config) : Prop := ∀ sw k a, physAddr cfg sw k a < cfg.memSize

/-- A machine with one bank, no offset and no soft switch, whose memory covers the logical space, as in
95_test_vectors.md. -/
def Config.plain (cfg : Config) : Prop :=
  cfg.bankMap = [] ∧ cfg.bankDefault = 0 ∧ cfg.switchDecode = [] ∧ 0x10000 ≤ cfg.memSize

/-- `BANK_OFFSETS` is what R10 says of it: exactly the offsets `BANK_MAP` can return. -/
def Config.banksRegistered (cfg : Config) : Prop :=
  ∀ off, off ∈ cfg.bankOffsets ↔ ∃ sw k a, bankOffset cfg sw k a = off

/-- The byte a read of logical address `a` returns now (R84). -/
def Machine.State.byteAt (s : State) (a : Addr) : Byte := s.memByte (s.phys .read a)

/-- The 16-bit value at `a`, low byte first (R92). -/
def Machine.State.wordAt (s : State) (a : Addr) : Addr := word16 (s.byteAt (a + 1)) (s.byteAt a)

/-- The pointer at page-zero address `z`: its high byte wraps inside page zero (R15, R186). -/
def Machine.State.zpWordAt (s : State) (z : Byte) : Addr :=
  word16 (s.byteAt (zext16 (z + 1))) (s.byteAt (zext16 z))

/-- The state an instruction's operation starts from: PC is past the instruction (R179). -/
def Machine.State.advance (s : State) (i : Instr) : State := s.setPc (s.pc + BitVec.ofNat 16 i.length)

/-- The register a load instruction loads (R231 to R233). -/
def loadTarget : Mnemonic → Option Reg
  | .lda => some .a
  | .ldx => some .x
  | .ldy => some .y
  | _ => none

/-- The byte a store instruction stores (R234 to R237). -/
def storeValue : Mnemonic → Option (State → Byte)
  | .sta => some fun s => s.a
  | .stx => some fun s => s.x
  | .sty => some fun s => s.y
  | .stz => some fun _ => 0x00
  | _ => none

/-- The two registers of a transfer that sets N and Z, from and to (R238 to R242). -/
def transferPair : Mnemonic → Option (Reg × Reg)
  | .tax => some (.a, .x)
  | .tay => some (.a, .y)
  | .txa => some (.x, .a)
  | .tya => some (.y, .a)
  | .tsx => some (.sp, .x)
  | _ => none

/-- The byte a push instruction pushes (R261 to R264). -/
def pushValue : Mnemonic → Option (State → Byte)
  | .pha => some fun s => s.a
  | .phx => some fun s => s.x
  | .phy => some fun s => s.y
  | .php => some fun s => pbyte s.p true
  | _ => none

/-- The register a pull instruction loads (R265, R267, R268). -/
def pullTarget : Mnemonic → Option Reg
  | .pla => some .a
  | .plx => some .x
  | .ply => some .y
  | _ => none

/-- The register a compare instruction compares (R289 to R291). -/
def compareSubject : Mnemonic → Option Reg
  | .cmp => some .a
  | .cpx => some .x
  | .cpy => some .y
  | _ => none

/-- What a logic instruction does with A and the operand byte (R320 to R322). -/
def logicOp : Mnemonic → Option (Byte → Byte → Byte)
  | .and => some fun a m => a &&& m
  | .ora => some fun a m => a ||| m
  | .eor => some fun a m => a ^^^ m
  | _ => none

/-- The result byte and the carry out of a shift or rotate, from the byte and the carry in (R324 to R327). -/
def shiftOp : Mnemonic → Option (Byte → Bool → Byte × Bool)
  | .asl => some fun m _ => (m <<< 1, m.getLsbD 7)
  | .lsr => some fun m _ => (m >>> 1, m.getLsbD 0)
  | .rol => some fun m c => ((m <<< 1) ||| flagBit c 0, m.getLsbD 7)
  | .ror => some fun m c => ((m >>> 1) ||| flagBit c 7, m.getLsbD 0)
  | _ => none

/-- The new byte of INC and DEC (R292, R293). -/
def incDecOp : Mnemonic → Option (Byte → Byte)
  | .inc => some fun m => m + 1
  | .dec => some fun m => m - 1
  | _ => none

/-- The register and the new byte of INX, INY, DEX and DEY (R294 to R297). -/
def indexStep : Mnemonic → Option (Reg × (Byte → Byte))
  | .inx => some (.x, fun v => v + 1)
  | .iny => some (.y, fun v => v + 1)
  | .dex => some (.x, fun v => v - 1)
  | .dey => some (.y, fun v => v - 1)
  | _ => none

/-- The new byte of TSB and TRB from A and the old byte (R328, R329). -/
def testAndSetOp : Mnemonic → Option (Byte → Byte → Byte)
  | .tsb => some fun a m => m ||| a
  | .trb => some fun a m => m &&& ~~~a
  | _ => none

/-- The bit number of RMBn (R330). -/
def resetBit : Mnemonic → Option Nat
  | .rmb0 => some 0
  | .rmb1 => some 1
  | .rmb2 => some 2
  | .rmb3 => some 3
  | .rmb4 => some 4
  | .rmb5 => some 5
  | .rmb6 => some 6
  | .rmb7 => some 7
  | _ => none

/-- The bit number of SMBn (R331). -/
def setBit : Mnemonic → Option Nat
  | .smb0 => some 0
  | .smb1 => some 1
  | .smb2 => some 2
  | .smb3 => some 3
  | .smb4 => some 4
  | .smb5 => some 5
  | .smb6 => some 6
  | .smb7 => some 7
  | _ => none

/-- The bit number of BBRn and BBSn and the value the branch is taken on (R377, R378). -/
def bitBranch : Mnemonic → Option (Nat × Bool)
  | .bbr0 => some (0, false)
  | .bbr1 => some (1, false)
  | .bbr2 => some (2, false)
  | .bbr3 => some (3, false)
  | .bbr4 => some (4, false)
  | .bbr5 => some (5, false)
  | .bbr6 => some (6, false)
  | .bbr7 => some (7, false)
  | .bbs0 => some (0, true)
  | .bbs1 => some (1, true)
  | .bbs2 => some (2, true)
  | .bbs3 => some (3, true)
  | .bbs4 => some (4, true)
  | .bbs5 => some (5, true)
  | .bbs6 => some (6, true)
  | .bbs7 => some (7, true)
  | _ => none

/-- The condition of a conditional branch (R368 to R375). -/
def branchCondition : Mnemonic → Option (Flags → Bool)
  | .bpl => some fun p => !p.n
  | .bmi => some fun p => p.n
  | .bvc => some fun p => !p.v
  | .bvs => some fun p => p.v
  | .bcc => some fun p => !p.c
  | .bcs => some fun p => p.c
  | .bne => some fun p => !p.z
  | .beq => some fun p => p.z
  | _ => none

/-- The flags after a flag instruction (R400 to R406). -/
def flagOp : Mnemonic → Option (Flags → Flags)
  | .clc => some fun p => { p with c := false }
  | .sec => some fun p => { p with c := true }
  | .cli => some fun p => { p with i := false }
  | .sei => some fun p => { p with i := true }
  | .cld => some fun p => { p with d := false }
  | .sed => some fun p => { p with d := true }
  | .clv => some fun p => { p with v := false }
  | _ => none

/-- The instructions R30 lists as writing A, whatever their operand. -/
def accumulatorWriters : List Mnemonic := [.lda, .pla, .txa, .tya, .adc, .sbc, .and, .ora, .eor]

/-- The instructions that write A in their accumulator form alone (R30). -/
def accumulatorFormWriters : List Mnemonic := [.asl, .lsr, .rol, .ror, .inc, .dec]

/-- The instructions R31 lists as writing X. -/
def xWriters : List Mnemonic := [.ldx, .plx, .tax, .tsx, .inx, .dex]

/-- The instructions R31 lists as writing Y. -/
def yWriters : List Mnemonic := [.ldy, .ply, .tay, .iny, .dey]

/-- The instructions that write S (R32): TXS, the pushes and pulls, JSR, RTS, RTI and BRK. -/
def stackPointerWriters : List Mnemonic :=
  [.txs, .pha, .phx, .phy, .php, .pla, .plx, .ply, .plp, .jsr, .rts, .rti, .brk]

/-- The instructions R35 lists as writing N; BIT immediate is the exception. -/
def negativeWriters : List Mnemonic :=
  [.lda, .ldx, .ldy, .tax, .tay, .txa, .tya, .tsx, .pla, .plx, .ply, .adc, .sbc, .and, .ora, .eor, .cmp, .cpx, .cpy,
    .inc, .dec, .inx, .iny, .dex, .dey, .asl, .lsr, .rol, .ror, .bit, .plp, .rti]

/-- The instructions R35 lists as writing V; BIT immediate is the exception. -/
def overflowWriters : List Mnemonic := [.adc, .sbc, .bit, .clv, .plp, .rti]

/-- The instructions R35 lists as writing D; BRK does on CMOS alone. -/
def decimalWriters : List Mnemonic := [.sed, .cld, .plp, .rti, .brk]

/-- The instructions R35 lists as writing I. -/
def interruptWriters : List Mnemonic := [.sei, .cli, .plp, .rti, .brk]

/-- The instructions R35 lists as writing Z. -/
def zeroWriters : List Mnemonic := negativeWriters ++ [.tsb, .trb]

/-- The instructions R35 lists as writing C. -/
def carryWriters : List Mnemonic :=
  [.adc, .sbc, .cmp, .cpx, .cpy, .asl, .lsr, .rol, .ror, .clc, .sec, .plp, .rti]

/-- The instructions whose memory form reads a byte and writes it back (R95). -/
def modifyingMnemonics : List Mnemonic :=
  [.asl, .lsr, .rol, .ror, .inc, .dec, .tsb, .trb, .rmb0, .rmb1, .rmb2, .rmb3, .rmb4, .rmb5, .rmb6, .rmb7,
    .smb0, .smb1, .smb2, .smb3, .smb4, .smb5, .smb6, .smb7]

/-- The reading instructions with a page-cross penalty in their modes `abx`, `aby` and `izy` (R174). -/
def penaltyReaders : List Mnemonic := [.lda, .ldx, .ldy, .adc, .sbc, .cmp, .and, .ora, .eor, .bit]

/-- The shifts and rotates (R324 to R327). -/
def shiftMnemonics : List Mnemonic := [.asl, .lsr, .rol, .ror]

/-- The rows that take the page-cross penalty (R174). -/
def takesPagePenalty (v : Variant) (m : Mnemonic) (mode : Mode) : Prop :=
  (m ∈ penaltyReaders ∧ (mode = .abx ∨ mode = .aby ∨ mode = .izy)) ∨
    (v ≠ .nmos6502 ∧ m ∈ shiftMnemonics ∧ mode = .abx)

/-- The base cost of a read, a store and a read-modify-write by addressing mode (R141, R543). -/
def accessCycles (v : Variant) (m : Mnemonic) (mode : Mode) : Nat :=
  let store := (storeValue m).isSome
  let modify := modifyingMnemonics.contains m
  match mode with
  | .zp => if modify then 5 else 3
  | .zpx | .zpy => if modify then 6 else 4
  | .abs => if modify then 6 else 4
  | .abx | .aby =>
    if modify then if shiftMnemonics.contains m && v.cmos then 6 else 7 else if store then 5 else 4
  | .izx => 6
  | .izy => if store then 6 else 5
  | .izp => 5
  | .imp | .acc | .imm | .ind | .iax | .rel | .zpr => 2

/-- The base cost of every instruction, as R141 and the summary R543 give it. -/
def summaryCycles (v : Variant) (m : Mnemonic) (mode : Mode) : Nat :=
  match m with
  | .brk => 7
  | .jsr | .rts | .rti => 6
  | .jmp => if mode = .abs then 3 else if mode = .ind ∧ v = .nmos6502 then 5 else 6
  | .pha | .phx | .phy | .php | .wai | .stp | .bra => 3
  | .pla | .plx | .ply | .plp => 4
  | _ => if mode = .zpr then 5 else accessCycles v m mode

/-- The instructions that store only to the stack (R261 to R264, R363, R366). -/
def pushingMnemonics : List Mnemonic := [.pha, .phx, .phy, .php, .jsr, .brk]

/-- Does the instruction store nothing to memory? -/
def Instr.storesNothing (i : Instr) : Bool :=
  (storeValue i.mnemonic).isNone && !pushingMnemonics.contains i.mnemonic &&
    (!modifyingMnemonics.contains i.mnemonic || i.operand == .acc)

/-- A boundary of a tick at which the engine goes on to `one_step` (R435 items 1 to 4 do not apply), with no command of
the host before it. -/
structure BoundaryOpen (s : State) : Prop where
  noCommand : s.commands = []
  inTick : s.inTick = true
  noFault : s.fault = none
  notStopped : s.stopped = false
  noPendingHalt : s.pendingHalt = none
  noPauseRequest : s.pauseReq = false
  budgetLeft : s.tickCycles < s.budget

/-- `one_step` goes straight to a PC breakpoint or the instruction at PC (R435 items 5 to 7 do not apply): no wait, no
NMI, and no IRQ that the I flag lets through. -/
structure Uninterrupted (s : State) : Prop where
  notWaiting : s.waiting = false
  noNmi : (s.nmiLatch || s.pinsNow.nmiEdge) = false
  noIrq : (s.pinsNow.irqLine && !s.p.i) = false

/-- The next step fetches the instruction at PC (R435: only item 9 applies). -/
structure Ready (s : State) : Prop where
  boundary : BoundaryOpen s
  uninterrupted : Uninterrupted s
  noBreakpoint : s.skipPcBp = true ∨ pcBreakpointHit s = false

/-- The state a boundary leaves before the opcode fetch: the register channel published, this boundary's lines used. -/
def Machine.State.atFetch (s : State) : State := { s.publish with pins := s.pins.tail }

/-- The flag bits of a breakpoint kind that is known (R470). -/
def kindFlags : KindName → Byte → Prop
  | .pc, bits => bits = 0x01
  | .read, bits => bits = 0x02
  | .write, bits => bits = 0x04
  | .access, bits => bits = 0x06
  | .unknown _, _ => False

/-- The character is the hexadecimal digit of value `n`, in either case (D7). -/
def hexDigitIs (c : Char) (n : Nat) : Prop :=
  ['0', '1', '2', '3', '4', '5', '6', '7', '8', '9', 'A', 'B', 'C', 'D', 'E', 'F'][n]? = some c ∨
    ['0', '1', '2', '3', '4', '5', '6', '7', '8', '9', 'a', 'b', 'c', 'd', 'e', 'f'][n]? = some c

/-- The digits are two for each byte, the high one first (R525). -/
def hexSpells : List Char → List Byte → Prop
  | [], bytes => bytes = []
  | [_], _ => False
  | c :: d :: digits, bytes =>
    ∃ (high low : Nat) (rest : List Byte), hexDigitIs c high ∧ hexDigitIs d low ∧ hexSpells digits rest ∧
      bytes = BitVec.ofNat 8 (16 * high + low) :: rest

/-- The bytes a payload holds (R525): raw, or spelled by its digits. -/
def Payload.holds : Payload → List Byte → Prop
  | .bytes content, held => held = content
  | .hex digits, held => hexSpells digits held

/-- Where a chunk goes: `BANK_BASE(bank) + addr`, the base defaulting to `bank * 0x10000` (R525, D7). -/
def Chunk.start (cfg : Config) (c : Chunk) : Nat :=
  (match cfg.bankBase[c.bank]? with
    | some base => base
    | none => c.bank * 0x10000) + c.addr.toNat

/-- A chunk that does not make its configuration be rejected, with its bytes: its bank is below `BANK_COUNT`, its
payload is well formed, and no byte of it lies past `MEM_SIZE` (R525). -/
def Chunk.accepted (cfg : Config) (c : Chunk) (bytes : List Byte) : Prop :=
  c.bank < cfg.bankCount ∧ c.payload.holds bytes ∧ ∀ k, k < bytes.length → c.start cfg + k < cfg.memSize

/-- Memory after the chunks with their bytes are stored in order (R525): `before q` where no chunk covers `q`. -/
def loadedByte (cfg : Config) : List (Chunk × List Byte) → (Nat → Byte) → Nat → Byte
  | [], before, q => before q
  | (c, bytes) :: rest, before, q =>
    loadedByte cfg rest (fun p => if c.start cfg ≤ p then (bytes[p - c.start cfg]?).getD (before p) else before p) q

/-- Decoding forward from an address over exactly `dist` bytes, every opcode valid, ends with the instruction at the
last address (R502). DESIGN CHOICE (log entry 17): a stream that meets a refused byte does not
land, and the bytes are counted, also where the distance is 65536 or more. -/
inductive ForwardLands (v : Variant) (readByte : Addr → Option Byte) : Addr → Nat → Addr → Prop where
  | last {a : Addr} {l : Line} : decodeOne v readByte a = some l → l.instr.isSome = true →
      ForwardLands v readByte a l.length a
  | more {a b : Addr} {dist : Nat} {l : Line} : decodeOne v readByte a = some l → l.instr.isSome = true →
      ForwardLands v readByte (a + BitVec.ofNat 16 l.length) dist b → ForwardLands v readByte a (l.length + dist) b

/-- R475: the dense entry of every logical address has exactly the flag bits of the sparse entries that map to it. -/
def tableAgrees (s : State) : Prop :=
  ∀ l, l ≤ 0xFFFF → ∀ k, k < 8 →
    ((s.dense l).getLsbD k = true ↔ ∃ p, l ∈ logical s.cfg p ∧ (s.sparse p).getLsbD k = true)

/-- The invariant of the machine: memory and both breakpoint tables in canonical form and inside their address spaces,
the breakpoint tables in agreement (R475), and `CTRL` in agreement with the run state (R43, R412, R445). -/
structure Inv (s : State) : Prop where
  memForm : Memory.wf s.cfg.initFill s.mem
  memBound : ∀ c ∈ s.mem, c.1 < s.cfg.memSize
  denseForm : Memory.wf 0 s.bpDense
  denseBound : ∀ c ∈ s.bpDense, c.1 ≤ 0xFFFF
  sparseForm : Memory.wf 0 s.bpSparse
  sparseBound : ∀ c ∈ s.bpSparse, c.1 < s.cfg.memSize
  tables : tableAgrees s
  faulted : s.fault.isSome → s.ctrl = .halted .outOfRange
  stop : s.stopped = true ↔ s.ctrl = .halted .stopped
  pausing : s.pauseReq = true → s.ctrl = .running
  ticking : s.inTick = true → s.ctrl = .running ∨ s.ctrl = .halted .stopped

end Sys2Proof
end

