-- ==== Sys2Proof/Certificates/Slice0/Obligations.lean ====
section
/-! DEFINITION. The statements about the model, from the spec's numbered rules. -/

open Sys2Proof Sys2Proof.Machine

/-! ### Encoding -/

/-- R130, R131, R134, R135: decoding the encoding of any well-formed instruction, whatever bytes follow, gives the
instruction back with every operand, and those bytes. -/
def Obligations.DecodeOfEncode : Prop :=
  ∀ (v : Variant) (i : Instr) (rest : List Byte), i.wf v = true → decode v (encode i ++ rest) = .ok (i, rest)

/-- R130, R133: what decodes is an instruction of the variant, and the bytes read are exactly its encoding, of the length
its row gives. -/
def Obligations.DecodedBytesAreTheEncoding : Prop :=
  ∀ (v : Variant) (bytes rest : List Byte) (i : Instr), decode v bytes = .ok (i, rest) →
    i.wf v = true ∧ bytes = encode i ++ rest ∧ (encode i).length = i.length

/-- R160: the golden byte sequence at $0800 decodes to its three instructions, with their lengths and cycles, on every
variant. -/
def Obligations.GoldenEncodings : Prop :=
  ∀ v : Variant,
    (disassembleRange v
        (fun a => [0xA9, 0x01, 0x8D, 0x00, 0x02, 0x4C, 0x00, 0x08][(a - 0x0800).toNat]?) 0x0800 (.count 3)).map
      (fun l => (l.address, l.instr, l.length, l.cycles)) =
    [(0x0800, some (.ldaImm 0x01), 2, 2), (0x0802, some (.staAbs 0x0200), 3, 4), (0x0805, some (.jmpAbs 0x0800), 3, 3)]

/-- R131, R134, R135, R140: words written out from the opcode map and the operand formats decode to their instructions,
at least one of each family. -/
def Obligations.WrittenWordsDecode : Prop :=
  decodeTableWord 8 0xEA = some .nop ∧
  decodeTableWord 8 0x00 = some .brk ∧
  decodeTableWord 16 0x80A9 = some (.ldaImm 0x80) ∧
  decodeTableWord 24 0x02008D = some (.staAbs 0x0200) ∧
  decodeTableWord 16 0xF0B1 = some (.ldaIzy 0xF0) ∧
  decodeTableWord 8 0x48 = some .pha ∧
  decodeTableWord 16 0x5069 = some (.adcImm 0x50) ∧
  decodeTableWord 24 0x1234FD = some (.sbcAbx 0x1234) ∧
  decodeTableWord 8 0x1A = some .incAcc ∧
  decodeTableWord 16 0x103C = some (.bitAbx 0x0010) ∧
  decodeTableWord 24 0x12345E = some (.lsrAbx 0x1234) ∧
  decodeTableWord 16 0x4037 = some (.rmb3 0x40) ∧
  decodeTableWord 24 0x10FF6C = some (.jmpInd 0x10FF) ∧
  decodeTableWord 16 0xFED0 = some (.bne 0xFE) ∧
  decodeTableWord 24 0xFB12FF = some (.bbs7 0x12 0xFB) ∧
  decodeTableWord 8 0xDB = some .stp

/-- R133, R145: an opcode byte is invalid for a variant exactly where no instruction of the variant has it, and the
numbers of invalid bytes are those of R145. -/
def Obligations.InvalidOpcodesAreNamed : Prop :=
  ∀ v : Variant,
    (∀ (op : Byte) (rest : List Byte),
      decode v (op :: rest) = .error (.invalidOpcode op) ↔ ∀ i : Instr, i.wf v = true → i.opcode ≠ op) ∧
    ((List.range 256).countP fun n => (lookupOpcode v (BitVec.ofNat 8 n)).isNone) =
      match v with
      | .w65c02s => 44
      | .r65c02 => 46
      | .c65c02 => 78
      | .nmos6502 => 105

/-! ### Memory, faults and completion -/

/-- R84, R85, R87, R100: a data write stores its byte with the bank the switches choose, then updates the switches; a
data read in range after it returns that byte where its address resolves to the physical address written, and the byte
that was there everywhere else, changes no byte and then updates the switches. -/
def Obligations.WritesReachLaterReads : Prop :=
  ∀ (s t : State) (a b : Addr) (v : Byte), Memory.wf s.cfg.initFill s.mem → memWrite a v s = .done () t →
    t.sw = switchDecode s.cfg s.sw .write a v ∧
    (t.phys .read b < s.cfg.memSize →
      let m := if t.phys .read b = s.phys .write a then v else s.memByte (t.phys .read b)
      ∃ u, memRead b t = .done m u ∧ u.mem = t.mem ∧ u.sw = switchDecode s.cfg t.sw .read b m)

/-- R170, R173 to R176, R526: where `BANK_MAP` keeps every address in range, every instruction of the table answers a
next state, charges its base cost and at most two cycles more, and clears `skip_pc_bp`. Its cost is the base cost, one
for a page cross in the rows that take the penalty (R174) and in no other, and the branch and decimal cycles; the base
cost is that of R141 and R543. -/
def Obligations.EveryInstructionCompletes : Prop :=
  (∀ (i : Instr) (s : State), s.cfg.mapsInRange →
    ∃ t, exec i s = .next t ∧ t.skipPcBp = false ∧
      s.tickCycles + i.baseCycles s.cfg.variant ≤ t.tickCycles ∧
      t.tickCycles ≤ s.tickCycles + i.baseCycles s.cfg.variant + 2) ∧
  ∀ (v : Variant) (i : Instr) (t : Timing),
    i.baseCycles v = summaryCycles v i.mnemonic i.operand.mode ∧
    (t.cross = true ∧ takesPagePenalty v i.mnemonic i.operand.mode →
      cost v i t = i.baseCycles v + 1 + t.branch + t.decimal) ∧
    (¬ (t.cross = true ∧ takesPagePenalty v i.mnemonic i.operand.mode) →
      cost v i t = i.baseCycles v + t.branch + t.decimal)

/-- R178, R445: an instruction stops only at an access whose physical address is at or above `MEM_SIZE`; the engine then
records the fault, is Halted(out-of-range), has emitted the one event with the instruction's own address, and has charged
nothing. No instruction is refused. R83, R178: such an access does stop, with no byte and no switch changed: a data read
or write of a load or a store, an opcode fetch, and the bus access itself. R88, R91: `debugRead` is refused there and
gives the stored byte elsewhere, from the configuration, the switches and memory alone. The fault outcome that carries
the halted state is log entry 9. -/
def Obligations.OutOfRangeHaltsTheEngine : Prop :=
  (∀ (i : Instr) (s : State),
    (∀ r, exec i s = .fault r → ∃ p u, r = .outOfRange p u ∧ s.cfg.memSize ≤ p ∧ u.fault = some (.outOfRange p) ∧
      u.ctrl = .halted .outOfRange ∧ u.inTick = false ∧ u.tickCycles = s.tickCycles ∧
      u.events = s.events ++ [.halted (.halt .outOfRange) s.pc]) ∧
    ∀ r, exec i s ≠ .refused r) ∧
  (∀ (s : State) (a : Addr), s.cfg.memSize ≤ s.phys .read a →
    busRead a s = .outOfRange (s.phys .read a) s ∧
    (∃ u, memRead a s = .outOfRange (s.phys .read a) u ∧ u = { s with pendingHalt := u.pendingHalt }) ∧
    debugRead s a = none ∧
    (Ready s → a = s.pc → ∃ u, step s = .fault (.outOfRange (s.phys .read a) u) ∧ u.mem = s.mem ∧ u.sw = s.sw ∧
      u.ctrl = .halted .outOfRange ∧ u.pc = s.pc)) ∧
  (∀ (s : State) (a : Addr) (v : Byte), s.cfg.memSize ≤ s.phys .write a →
    busWrite a v s = .outOfRange (s.phys .write a) s ∧
    ∃ u, memWrite a v s = .outOfRange (s.phys .write a) u ∧ u = { s with pendingHalt := u.pendingHalt }) ∧
  (∀ (i : Instr) (s u : State) (r : Reg) (pl : Place) (ea : EffAddr), loadTarget i.mnemonic = some r →
    i.operand = .mem pl → effAddr pl (s.advance i) = .done ea u → s.cfg.memSize ≤ u.phys .read ea.addr →
    ∃ h, exec i s = .fault (.outOfRange (u.phys .read ea.addr) h) ∧ h.reg r = s.reg r ∧ h.p = s.p) ∧
  (∀ (i : Instr) (s u : State) (f : State → Byte) (pl : Place) (ea : EffAddr), storeValue i.mnemonic = some f →
    i.operand = .mem pl → effAddr pl (s.advance i) = .done ea u → s.cfg.memSize ≤ u.phys .write ea.addr →
    ∃ h, exec i s = .fault (.outOfRange (u.phys .write ea.addr) h) ∧ h.mem = s.mem) ∧
  (∀ (s : State) (a : Addr), s.phys .read a < s.cfg.memSize → debugRead s a = some (s.memByte (s.phys .read a))) ∧
  ∀ (s t : State) (a : Addr), t.cfg = s.cfg → t.sw = s.sw → t.mem = s.mem → debugRead t a = debugRead s a

/-! ### Addressing modes -/

/-- R183 to R191: on a machine without soft switches, the effective address of each mode, and whether indexing crossed a
page. The pointer modes read page zero with its wrap and change nothing but a breakpoint's flag. -/
def Obligations.EffectiveAddresses : Prop :=
  ∀ (s : State) (z : Byte) (base : Addr), s.cfg.mapsInRange → s.cfg.switchDecode = [] →
    effAddr (.zp z) s = .done { addr := zext16 z, cross := false } s ∧
    effAddr (.zpx z) s = .done { addr := zext16 (z + s.x), cross := false } s ∧
    effAddr (.zpy z) s = .done { addr := zext16 (z + s.y), cross := false } s ∧
    effAddr (.abs base) s = .done { addr := base, cross := false } s ∧
    effAddr (.abx base) s =
      .done { addr := base + zext16 s.x, cross := page base != page (base + zext16 s.x) } s ∧
    effAddr (.aby base) s =
      .done { addr := base + zext16 s.y, cross := page base != page (base + zext16 s.y) } s ∧
    (∃ t, effAddr (.izx z) s = .done { addr := s.zpWordAt (z + s.x), cross := false } t ∧
      t = { s with pendingHalt := t.pendingHalt }) ∧
    (∃ t, effAddr (.izp z) s = .done { addr := s.zpWordAt z, cross := false } t ∧
      t = { s with pendingHalt := t.pendingHalt }) ∧
    ∃ t, effAddr (.izy z) s =
        .done
          { addr := s.zpWordAt z + zext16 s.y
            cross := page (s.zpWordAt z) != page (s.zpWordAt z + zext16 s.y) } t ∧
      t = { s with pendingHalt := t.pendingHalt }

/-- R182, R196: an operand read gives the immediate byte with no access, or the byte at the effective address, read once
after the mode's pointer reads; it changes the switches and a breakpoint's flag alone. -/
def Obligations.OperandBytes : Prop :=
  ∀ (src : Source) (s t : State) (m : OperandByte), readSource src s = .done m t →
    t = { s with sw := t.sw, pendingHalt := t.pendingHalt } ∧
    match src with
    | .imm v => m = { value := v, cross := false } ∧ t = s
    | .mem pl =>
      ∃ ea u, effAddr pl s = .done ea u ∧ u = { s with sw := u.sw, pendingHalt := u.pendingHalt } ∧
        memRead ea.addr u = .done m.value t ∧ m.value = u.byteAt ea.addr ∧ m.cross = ea.cross

/-! ### Loads, stores and transfers -/

/-- R231 to R233: LDA, LDX and LDY, every mode: the register and N, Z from the operand byte, nothing else; the base cost,
with the page cross of the modes that take it. -/
def Obligations.LoadsComplete : Prop :=
  ∀ (i : Instr) (s : State) (r : Reg) (src : Source), loadTarget i.mnemonic = some r →
    i.operand.source? = some src → s.cfg.mapsInRange →
    ∃ m u, readSource src (s.advance i) = .done m u ∧
      exec i s = .next
        (({ u.setReg r m.value with p := { s.p with n := m.value.getLsbD 7, z := m.value == 0 } } : State).complete
          (cost s.cfg.variant i { cross := m.cross }))

/-- R234 to R237: STA, STX, STY and STZ, every mode: one write of the register's byte, or of zero, at the effective
address; no flag, no register, and no page penalty. -/
def Obligations.StoresComplete : Prop :=
  ∀ (i : Instr) (s : State) (f : State → Byte) (pl : Place), storeValue i.mnemonic = some f →
    i.operand.place? = some pl → s.cfg.mapsInRange →
    ∃ ea u t, effAddr pl (s.advance i) = .done ea u ∧ memWrite ea.addr (f s) u = .done () t ∧
      exec i s = .next (t.complete (i.baseCycles s.cfg.variant))

/-- R238 to R243: the transfers write their destination and N, Z from the byte; TXS writes S and no flag. -/
def Obligations.TransfersComplete : Prop :=
  (∀ (i : Instr) (s : State) (src dst : Reg), transferPair i.mnemonic = some (src, dst) →
    exec i s = .next
      (({ (s.advance i).setReg dst (s.reg src) with
          p := { s.p with n := (s.reg src).getLsbD 7, z := s.reg src == 0 } } : State).complete
        (i.baseCycles s.cfg.variant))) ∧
  ∀ s : State,
    exec .txs s = .next (({ s.advance .txs with sp := s.x } : State).complete (Instr.baseCycles s.cfg.variant .txs))

/-! ### Stack instructions -/

/-- R260 to R264: PHA, PHX, PHY and PHP write one byte at 0x0100 + S, then S is one less modulo 256; no flag changes. -/
def Obligations.PushesComplete : Prop :=
  ∀ (i : Instr) (s : State) (f : State → Byte), pushValue i.mnemonic = some f → s.cfg.mapsInRange →
    ∃ u, memWrite (0x0100 + zext16 s.sp) (f s) (s.advance i) = .done () u ∧
      exec i s = .next (({ u with sp := s.sp - 1 } : State).complete (i.baseCycles s.cfg.variant))

/-- R260, R265 to R268, R34: PLA, PLX and PLY add one to S modulo 256, read one byte at 0x0100 + S, and set N and Z from
it; PLP writes the six flags from its bits 7, 6, 3, 2, 1 and 0. -/
def Obligations.PullsComplete : Prop :=
  (∀ (i : Instr) (s : State) (r : Reg), pullTarget i.mnemonic = some r → s.cfg.mapsInRange →
    ∃ v u, memRead (0x0100 + zext16 (s.sp + 1)) { s.advance i with sp := s.sp + 1 } = .done v u ∧
      exec i s = .next
        (({ u.setReg r v with p := { s.p with n := v.getLsbD 7, z := v == 0 } } : State).complete
          (i.baseCycles s.cfg.variant))) ∧
  ∀ s : State, s.cfg.mapsInRange →
    ∃ v u, memRead (0x0100 + zext16 (s.sp + 1)) { s.advance .plp with sp := s.sp + 1 } = .done v u ∧
      exec .plp s = .next
        (({ u with
            p :=
              { n := v.getLsbD 7, v := v.getLsbD 6, d := v.getLsbD 3
                i := v.getLsbD 2, z := v.getLsbD 1, c := v.getLsbD 0 } } : State).complete
          (Instr.baseCycles s.cfg.variant .plp))

/-! ### Arithmetic -/

/-- R286, R176: ADC, every mode: A and the flags by the binary or the variant's decimal rule; on CMOS a decimal addition
costs one cycle more. -/
def Obligations.AddWithCarryCompletes : Prop :=
  ∀ (i : Instr) (s : State) (src : Source), i.mnemonic = .adc → i.operand.source? = some src → s.cfg.mapsInRange →
    ∃ m u, readSource src (s.advance i) = .done m u ∧
      let r :=
        if s.p.d = false then addBinary s.a m.value s.p
        else if s.cfg.variant = .nmos6502 then addDecimalNmos s.a m.value s.p
        else addDecimalCmos s.a m.value s.p
      exec i s = .next
        (({ u with a := r.1, p := r.2 } : State).complete
          (cost s.cfg.variant i
            { cross := m.cross, decimal := if s.p.d = true ∧ s.cfg.variant ≠ .nmos6502 then 1 else 0 }))

/-- R287, R176: SBC, every mode: A and the flags by the binary or the variant's decimal rule; on CMOS a decimal
subtraction costs one cycle more. -/
def Obligations.SubtractWithBorrowCompletes : Prop :=
  ∀ (i : Instr) (s : State) (src : Source), i.mnemonic = .sbc → i.operand.source? = some src → s.cfg.mapsInRange →
    ∃ m u, readSource src (s.advance i) = .done m u ∧
      let r :=
        if s.p.d = false then subBinary s.a m.value s.p
        else if s.cfg.variant = .nmos6502 then subDecimalNmos s.a m.value s.p
        else subDecimalCmos s.a m.value s.p
      exec i s = .next
        (({ u with a := r.1, p := r.2 } : State).complete
          (cost s.cfg.variant i
            { cross := m.cross, decimal := if s.p.d = true ∧ s.cfg.variant ≠ .nmos6502 then 1 else 0 }))

/-- R280: the sum modulo 256, the unsigned carry out, V by its formula, which is the signed overflow, N and Z of the
result; D and I unchanged. -/
def Obligations.BinaryAddition : Prop :=
  ∀ (a m : Byte) (p : Flags),
    let r := (addBinary a m p).1
    let q := (addBinary a m p).2
    let sum := a.toNat + m.toNat + (if p.c then 1 else 0)
    let signed := a.toInt + m.toInt + (if p.c then 1 else 0)
    r.toNat = sum % 256 ∧
    q.c = decide (sum > 0xFF) ∧
    q.v = decide ((a ^^^ r) &&& (m ^^^ r) &&& 0x80 ≠ 0) ∧
    q.v = decide (signed < -128 ∨ 127 < signed) ∧
    q.n = r.getLsbD 7 ∧ q.z = decide (r = 0) ∧ q.d = p.d ∧ q.i = p.i

/-- R283: binary addition of the ones' complement: the result modulo 256, C as no borrow, V by its formula, N and Z of the
result; with C = 1 it subtracts M exactly. -/
def Obligations.BinarySubtraction : Prop :=
  ∀ (a m : Byte) (p : Flags),
    let r := (subBinary a m p).1
    let q := (subBinary a m p).2
    let sum := a.toNat + (m ^^^ 0xFF).toNat + (if p.c then 1 else 0)
    r.toNat = sum % 256 ∧
    sum + m.toNat + (if p.c then 0 else 1) = a.toNat + 256 ∧
    q.c = decide (sum > 0xFF) ∧
    q.c = decide (m.toNat + (if p.c then 0 else 1) ≤ a.toNat) ∧
    q.v = decide ((a ^^^ r) &&& ((m ^^^ 0xFF) ^^^ r) &&& 0x80 ≠ 0) ∧
    q.n = r.getLsbD 7 ∧ q.z = decide (r = 0) ∧ q.d = p.d ∧ q.i = p.i ∧
    (p.c = true → r = a - m)

/-- R281, R282: decimal addition of any two bytes, decimal digits or not: the corrected sum, its carry, V of the signed
intermediate, N and Z of the result on CMOS; on NMOS the same byte, C and V, N of the signed intermediate, Z of the
binary sum; D and I are unchanged. Of two bytes of decimal digits it is the digits of the decimal sum modulo 100, with C
the decimal carry. -/
def Obligations.DecimalAddition : Prop :=
  (∀ (a m : Byte) (p : Flags),
    let c := if p.c then 1 else 0
    let digit := a.toNat % 16 + m.toNat % 16 + c
    let lo := if 10 ≤ digit then (digit + 6) % 16 + 16 else digit
    let sum := a.toNat / 16 * 16 + m.toNat / 16 * 16 + lo
    let t := if 0xA0 ≤ sum then sum + 0x60 else sum
    let signed := fun b : Byte => ((b.toNat / 16 * 16 : Nat) : Int) - (if 128 ≤ b.toNat then 256 else 0)
    let sv := signed a + signed m + lo
    let cmos := addDecimalCmos a m p
    let nmos := addDecimalNmos a m p
    cmos.1.toNat = t % 256 ∧
    cmos.2 =
      { p with
        c := decide (0x100 ≤ t), v := decide (sv < -128 ∨ 127 < sv), n := cmos.1.getLsbD 7
        z := decide (cmos.1 = 0) } ∧
    nmos.1 = cmos.1 ∧
    nmos.2 =
      { cmos.2 with n := decide (128 ≤ sv % 256), z := decide ((a.toNat + m.toNat + c) % 256 = 0) }) ∧
  ∀ (p : Flags) (x y : Nat), x < 100 → y < 100 →
    let digits := fun n : Nat => BitVec.ofNat 8 (16 * (n / 10) + n % 10)
    let sum := x + y + (if p.c then 1 else 0)
    let cmos := addDecimalCmos (digits x) (digits y) p
    let nmos := addDecimalNmos (digits x) (digits y) p
    cmos.1 = digits (sum % 100) ∧ cmos.2.c = decide (100 ≤ sum) ∧
    cmos.2.n = cmos.1.getLsbD 7 ∧ cmos.2.z = decide (sum % 100 = 0) ∧
    nmos.1 = cmos.1 ∧ nmos.2.c = cmos.2.c ∧ nmos.2.v = cmos.2.v ∧
    nmos.2.z = (addBinary (digits x) (digits y) p).2.z ∧
    cmos.2.d = p.d ∧ cmos.2.i = p.i ∧ nmos.2.d = p.d ∧ nmos.2.i = p.i

/-- R284, R285: decimal subtraction of any two bytes, decimal digits or not: the corrected difference of each variant; on
CMOS C and V as binary subtraction and N and Z of the result, on NMOS all four as binary subtraction; D and I are
unchanged. Of two bytes of decimal digits it is the digits of the decimal difference modulo 100, with C as no decimal
borrow. -/
def Obligations.DecimalSubtraction : Prop :=
  (∀ (a m : Byte) (p : Flags),
    let borrow : Int := if p.c then 0 else 1
    let lo : Int := ((a.toNat % 16 : Nat) : Int) - (m.toNat % 16 : Nat) - borrow
    let t : Int := (a.toNat : Int) - m.toNat - borrow
    let cmosT := (if t < 0 then t - 0x60 else t) - (if lo < 0 then 0x06 else 0)
    let nmosLo := if lo < 0 then (lo - 0x06) % 16 - 0x10 else lo
    let nmosSum := ((a.toNat / 16 * 16 : Nat) : Int) - (m.toNat / 16 * 16 : Nat) + nmosLo
    let nmosT := if nmosSum < 0 then nmosSum - 0x60 else nmosSum
    let cmos := subDecimalCmos a m p
    let nmos := subDecimalNmos a m p
    (cmos.1.toNat : Int) = cmosT % 256 ∧
    cmos.2 = { (subBinary a m p).2 with n := cmos.1.getLsbD 7, z := decide (cmos.1 = 0) } ∧
    (nmos.1.toNat : Int) = nmosT % 256 ∧
    nmos.2 = (subBinary a m p).2 ∧ cmos.2.d = p.d ∧ cmos.2.i = p.i ∧ nmos.2.d = p.d ∧ nmos.2.i = p.i) ∧
  ∀ (p : Flags) (x y : Nat), x < 100 → y < 100 →
    let digits := fun n : Nat => BitVec.ofNat 8 (16 * (n / 10) + n % 10)
    let borrow := if p.c then 0 else 1
    let cmos := subDecimalCmos (digits x) (digits y) p
    let nmos := subDecimalNmos (digits x) (digits y) p
    cmos.1 = digits ((x + 100 - y - borrow) % 100) ∧ cmos.2.c = decide (y + borrow ≤ x) ∧
    cmos.2.n = cmos.1.getLsbD 7 ∧ cmos.2.z = decide (cmos.1 = 0) ∧
    nmos.1 = cmos.1 ∧ nmos.2 = (subBinary (digits x) (digits y) p).2

/-- R288: CMP, CPX and CPY, every mode: C is the unsigned comparison, Z equality, N bit 7 of the difference; no register
and no other flag is written. -/
def Obligations.ComparesComplete : Prop :=
  ∀ (i : Instr) (s : State) (r : Reg) (src : Source), compareSubject i.mnemonic = some r →
    i.operand.source? = some src → s.cfg.mapsInRange →
    ∃ m u, readSource src (s.advance i) = .done m u ∧
      exec i s = .next
        (({ u with
            p :=
              { s.p with
                c := decide (m.value.toNat ≤ (s.reg r).toNat)
                z := decide (s.reg r = m.value)
                n := (s.reg r - m.value).getLsbD 7 } } : State).complete
          (cost s.cfg.variant i { cross := m.cross }))

/-- R292 to R297: INC and DEC on memory read and write the effective address once and set N and Z from the new byte; on A,
and INX, INY, DEX and DEY, the register changes by one modulo 256 and sets N and Z. No page penalty. -/
def Obligations.IncrementsComplete : Prop :=
  (∀ (i : Instr) (s : State) (f : Byte → Byte) (pl : Place), incDecOp i.mnemonic = some f →
    i.operand.target? = some (.mem pl) → s.cfg.mapsInRange →
    ∃ ea u m v w, effAddr pl (s.advance i) = .done ea u ∧ memRead ea.addr u = .done m v ∧
      memWrite ea.addr (f m) v = .done () w ∧
      exec i s = .next
        (({ w with p := { s.p with n := (f m).getLsbD 7, z := f m == 0 } } : State).complete
          (i.baseCycles s.cfg.variant))) ∧
  (∀ (i : Instr) (s : State) (f : Byte → Byte), incDecOp i.mnemonic = some f → i.operand.target? = some .acc →
    exec i s = .next
      (({ s.advance i with
          a := f s.a, p := { s.p with n := (f s.a).getLsbD 7, z := f s.a == 0 } } : State).complete
        (i.baseCycles s.cfg.variant))) ∧
  ∀ (i : Instr) (s : State) (r : Reg) (f : Byte → Byte), indexStep i.mnemonic = some (r, f) →
    exec i s = .next
      (({ (s.advance i).setReg r (f (s.reg r)) with
          p := { s.p with n := (f (s.reg r)).getLsbD 7, z := f (s.reg r) == 0 } } : State).complete
        (i.baseCycles s.cfg.variant))

/-! ### Logic, shifts and bit operations -/

/-- R320 to R322: AND, ORA and EOR, every mode: A and N, Z from the bitwise result, nothing else. -/
def Obligations.LogicCompletes : Prop :=
  ∀ (i : Instr) (s : State) (f : Byte → Byte → Byte) (src : Source), logicOp i.mnemonic = some f →
    i.operand.source? = some src → s.cfg.mapsInRange →
    ∃ m u, readSource src (s.advance i) = .done m u ∧
      exec i s = .next
        (({ u with
            a := f s.a m.value
            p := { s.p with n := (f s.a m.value).getLsbD 7, z := f s.a m.value == 0 } } : State).complete
          (cost s.cfg.variant i { cross := m.cross }))

/-- R323: BIT on memory sets Z from A and M, N and V from bits 7 and 6 of M; BIT immediate sets Z alone; A is not
written. -/
def Obligations.BitTestCompletes : Prop :=
  (∀ (i : Instr) (s : State) (pl : Place), i.mnemonic = .bit → i.operand = .mem pl → s.cfg.mapsInRange →
    ∃ m u, readSource (.mem pl) (s.advance i) = .done m u ∧
      exec i s = .next
        (({ u with
            p :=
              { s.p with
                z := s.a &&& m.value == 0, n := m.value.getLsbD 7, v := m.value.getLsbD 6 } } : State).complete
          (cost s.cfg.variant i { cross := m.cross }))) ∧
  ∀ (s : State) (v : Byte),
    exec (.bitImm v) s = .next
      (({ s.advance (.bitImm v) with p := { s.p with z := s.a &&& v == 0 } } : State).complete
        (Instr.baseCycles s.cfg.variant (.bitImm v)))

/-- R324 to R327: ASL, LSR, ROL and ROR on A and on memory: the shifted byte, C the bit shifted out, N and Z of the
result; on memory one read and one write of the effective address, the flags written before the write. -/
def Obligations.ShiftsComplete : Prop :=
  (∀ (i : Instr) (s : State) (f : Byte → Bool → Byte × Bool), shiftOp i.mnemonic = some f →
    i.operand.target? = some .acc →
    let r := f s.a s.p.c
    exec i s = .next
      (({ s.advance i with a := r.1, p := { s.p with n := r.1.getLsbD 7, z := r.1 == 0, c := r.2 } } : State).complete
        (i.baseCycles s.cfg.variant))) ∧
  ∀ (i : Instr) (s : State) (f : Byte → Bool → Byte × Bool) (pl : Place), shiftOp i.mnemonic = some f →
    i.operand.target? = some (.mem pl) → s.cfg.mapsInRange →
    ∃ ea u m v w, effAddr pl (s.advance i) = .done ea u ∧ memRead ea.addr u = .done m v ∧
      let r := f m s.p.c
      memWrite ea.addr r.1 { v with p := { s.p with n := r.1.getLsbD 7, z := r.1 == 0, c := r.2 } } = .done () w ∧
      exec i s = .next (w.complete (cost s.cfg.variant i { cross := ea.cross }))

/-- R328 to R331: TSB and TRB set Z from A and the old byte and write it with A's bits set or cleared; RMBn and SMBn write
the page-zero byte with bit n cleared or set, and no flag. Each is one read and one write of the address. -/
def Obligations.BitChangesComplete : Prop :=
  (∀ (i : Instr) (s : State) (f : Byte → Byte → Byte) (pl : Place), testAndSetOp i.mnemonic = some f →
    i.operand.place? = some pl → s.cfg.mapsInRange →
    ∃ ea u m v w, effAddr pl (s.advance i) = .done ea u ∧ memRead ea.addr u = .done m v ∧
      memWrite ea.addr (f s.a m) { v with p := { s.p with z := s.a &&& m == 0 } } = .done () w ∧
      exec i s = .next (w.complete (i.baseCycles s.cfg.variant))) ∧
  ∀ (i : Instr) (s : State) (n : Nat) (b : Bool) (z : Byte),
    (resetBit i.mnemonic = some n ∧ b = false) ∨ (setBit i.mnemonic = some n ∧ b = true) →
    i.operand = .mem (.zp z) → s.cfg.mapsInRange →
    ∃ m v w, memRead (zext16 z) (s.advance i) = .done m v ∧
      memWrite (zext16 z) (if b then m ||| 1#8 <<< n else m &&& ~~~(1#8 <<< n)) v = .done () w ∧
      exec i s = .next (w.complete (i.baseCycles s.cfg.variant))

/-! ### Control transfer -/

/-- R360 to R362, R192, R193: JMP goes to its address, through the pointer (on NMOS with the high byte from the pointer's
own page), or through the pointer indexed by X. -/
def Obligations.JumpsComplete : Prop :=
  (∀ (s : State) (a : Addr),
    exec (.jmpAbs a) s = .next (({ s with pc := a } : State).complete (Instr.baseCycles s.cfg.variant (.jmpAbs a)))) ∧
  (∀ (s : State) (ptr : Addr), s.cfg.mapsInRange →
    ∃ l u h w, memRead ptr (s.advance (.jmpInd ptr)) = .done l u ∧
      memRead (if s.cfg.variant = .nmos6502 then word16 (hi ptr) (lo ptr + 1) else ptr + 1) u = .done h w ∧
      exec (.jmpInd ptr) s =
        .next (({ w with pc := word16 h l } : State).complete (Instr.baseCycles s.cfg.variant (.jmpInd ptr)))) ∧
  ∀ (s : State) (base : Addr), s.cfg.mapsInRange →
    ∃ l u h w, memRead (base + zext16 s.x) (s.advance (.jmpIax base)) = .done l u ∧
      memRead (base + zext16 s.x + 1) u = .done h w ∧
      exec (.jmpIax base) s =
        .next (({ w with pc := word16 h l } : State).complete (Instr.baseCycles s.cfg.variant (.jmpIax base)))

/-- R363, R364: JSR pushes the address of its own last byte, high byte first, and goes to its target; RTS pulls it, low
byte first, and goes one past it. -/
def Obligations.SubroutineInstructionsComplete : Prop :=
  (∀ (s : State) (a : Addr), s.cfg.mapsInRange →
    ∃ u w, push (hi (s.pc + 2)) (s.advance (.jsr a)) = .done () u ∧ push (lo (s.pc + 2)) u = .done () w ∧
      exec (.jsr a) s = .next (({ w with pc := a } : State).complete 6)) ∧
  ∀ s : State, s.cfg.mapsInRange →
    ∃ l u h w, pull (s.advance .rts) = .done l u ∧ pull u = .done h w ∧
      exec .rts s = .next (({ w with pc := word16 h l + 1 } : State).complete 6)

/-- R365: RTI pulls the flags, then PC, low byte first, with no 1 added. -/
def Obligations.ReturnFromInterruptCompletes : Prop :=
  ∀ s : State, s.cfg.mapsInRange →
    ∃ v u l w h x, pull (s.advance .rti) = .done v u ∧
      pull
          { u with
            p :=
              { n := v.getLsbD 7, v := v.getLsbD 6, d := v.getLsbD 3
                i := v.getLsbD 2, z := v.getLsbD 1, c := v.getLsbD 0 } } = .done l w ∧
      pull w = .done h x ∧
      exec .rti s = .next (({ x with pc := word16 h l } : State).complete 6)

/-- R366, R479: BRK takes the exception of vector 0xFFFE with its own address + 2 pushed and B = 1, at a cost of 7; with
`BREAK_ON_BRK` it leaves a halt with the handler's address. That it does so only where none is pending is R479's condition,
which R366's pseudocode does not have: the model's choice, log entry 10. -/
def Obligations.BreakCompletes : Prop :=
  ∀ s : State, s.cfg.mapsInRange →
    ∃ t, takeException 0xFFFE (s.pc + 2) true (s.advance .brk) = .done () t ∧
      exec .brk s = .next
        (({ t with
            pendingHalt :=
              if s.cfg.breakOnBrk = true ∧ t.pendingHalt = none then some { reason := .brk, address := some t.pc }
              else t.pendingHalt } : State).complete 7)

/-- R367: the eight conditional branches write PC alone: the target where the condition holds, else the next instruction;
2 cycles, one more when taken, and one more when taken across a page. -/
def Obligations.BranchesComplete : Prop :=
  ∀ (i : Instr) (s : State) (cond : Flags → Bool) (r : Byte), branchCondition i.mnemonic = some cond →
    i.operand = .rel r →
    let next := s.pc + 2
    let target := next + r.signExtend 16
    exec i s = .next
      (if cond s.p = true then
        ({ s with pc := target } : State).complete (if page next = page target then 3 else 4)
      else ({ s with pc := next } : State).complete 2)

/-- R376 to R378: BRA always goes to its target, 3 cycles and one more across a page; BBRn and BBSn read their page-zero
byte and go to the target on their bit, 5 cycles, one more when taken and one more across a page. -/
def Obligations.OtherBranchesComplete : Prop :=
  (∀ (s : State) (r : Byte),
    let next := s.pc + 2
    let target := next + r.signExtend 16
    exec (.bra r) s = .next (({ s with pc := target } : State).complete (if page next = page target then 3 else 4))) ∧
  ∀ (i : Instr) (s : State) (n : Nat) (want : Bool) (z r : Byte), bitBranch i.mnemonic = some (n, want) →
    i.operand = .zpr z r → s.cfg.mapsInRange →
    let next := s.pc + 3
    let target := next + r.signExtend 16
    ∃ m u, memRead (zext16 z) (s.advance i) = .done m u ∧
      exec i s = .next
        (if m.getLsbD n = want then
          ({ u with pc := target } : State).complete (if page next = page target then 6 else 7)
        else u.complete 5)

/-! ### Flag, no-operation and processor-state instructions -/

/-- R400 to R406, R407, R411, R412: CLC, SEC, CLI, SEI, CLD, SED and CLV write their one flag, PC and the cost of 2,
nothing else; NOP moves PC on; WAI begins to wait; STP stops the processor, Halted(stopped), with its event. -/
def Obligations.FlagAndSystemInstructionsComplete : Prop :=
  (∀ (i : Instr) (s : State) (f : Flags → Flags), flagOp i.mnemonic = some f →
    exec i s = .next (({ s with pc := s.pc + 1, p := f s.p } : State).complete 2)) ∧
  ∀ s : State,
    exec .nop s = .next (({ s with pc := s.pc + 1 } : State).complete 2) ∧
    exec .wai s = .next (({ s with pc := s.pc + 1, waiting := true } : State).complete 3) ∧
    exec .stp s = .next
      (({ s with
          pc := s.pc + 1, stopped := true, ctrl := .halted .stopped
          events := s.events ++ [.halted (.halt .stopped) (s.pc + 1)] } : State).complete 3)

/-! ### The stack and exceptions as a whole -/

/-- R33, R34: the composed status byte has the flags in bits 7, 6, 3, 2, 1 and 0, bit 5 set and the break value in bit
4; writing the flags from a byte takes those six bits; so writing them from the composed byte gives them back. -/
def Obligations.StatusByteRoundTrip : Prop :=
  (∀ (p : Flags) (b : Bool),
    (pbyte p b).getLsbD 7 = p.n ∧ (pbyte p b).getLsbD 6 = p.v ∧ (pbyte p b).getLsbD 5 = true ∧
    (pbyte p b).getLsbD 4 = b ∧ (pbyte p b).getLsbD 3 = p.d ∧ (pbyte p b).getLsbD 2 = p.i ∧
    (pbyte p b).getLsbD 1 = p.z ∧ (pbyte p b).getLsbD 0 = p.c ∧ flagsOfByte (pbyte p b) = p) ∧
  ∀ v : Byte,
    flagsOfByte v =
      { n := v.getLsbD 7, v := v.getLsbD 6, d := v.getLsbD 3
        i := v.getLsbD 2, z := v.getLsbD 1, c := v.getLsbD 0 }

/-- R363, R364 on a machine with one bank and no soft switch: RTS executed right after JSR returns to the instruction
after the JSR, with S, every register and every flag as before it. -/
def Obligations.SubroutineReturns : Prop :=
  ∀ (s : State) (a : Addr), s.cfg.plain → Memory.wf s.cfg.initFill s.mem →
    ∃ t u, exec (.jsr a) s = .next t ∧ t.pc = a ∧ t.sp = s.sp - 2 ∧ exec .rts t = .next u ∧
      u.pc = s.pc + 3 ∧ u.sp = s.sp ∧ u.a = s.a ∧ u.x = s.x ∧ u.y = s.y ∧ u.p = s.p

/-- R433, R366 on a machine with one bank and no soft switch: taking an exception leaves the return address and the status
byte on the stack, I set, D cleared on CMOS alone, PC from the vector, and every other register and byte as before. -/
def Obligations.ExceptionEntry : Prop :=
  ∀ (s : State) (vector ret : Addr) (b : Bool), s.cfg.plain → Memory.wf s.cfg.initFill s.mem →
    vector = 0xFFFA ∨ vector = 0xFFFE →
    ∃ t, takeException vector ret b s = .done () t ∧
      t.pc = s.wordAt vector ∧ t.sp = s.sp - 3 ∧ t.a = s.a ∧ t.x = s.x ∧ t.y = s.y ∧
      t.p = { s.p with i := true, d := if s.cfg.variant = .nmos6502 then s.p.d else false } ∧
      t.byteAt (0x0100 + zext16 s.sp) = hi ret ∧
      t.byteAt (0x0100 + zext16 (s.sp - 1)) = lo ret ∧
      t.byteAt (0x0100 + zext16 (s.sp - 2)) = pbyte s.p b ∧
      ∀ q : Addr, q ≠ 0x0100 + zext16 s.sp → q ≠ 0x0100 + zext16 (s.sp - 1) → q ≠ 0x0100 + zext16 (s.sp - 2) →
        t.byteAt q = s.byteAt q

/-- R434 on a machine with one bank and no soft switch: returning right after an exception is taken resumes at the return
address, with all six flags, S and every register as before. -/
def Obligations.ExceptionReturns : Prop :=
  ∀ (s : State) (vector ret : Addr) (b : Bool), s.cfg.plain → Memory.wf s.cfg.initFill s.mem →
    ∃ t u, takeException vector ret b s = .done () t ∧ returnFromException t = .done () u ∧
      u.pc = ret ∧ u.p = s.p ∧ u.sp = s.sp ∧ u.a = s.a ∧ u.x = s.x ∧ u.y = s.y

/-! ### The engine -/

/-- R170, R171, R179: at a boundary where nothing comes before the instruction at PC, and where the bytes there are the
encoding of an instruction of the variant, a step publishes the register channel, uses up this boundary's interrupt lines,
fetches the bytes and is `exec` of the instruction. Without soft switches the fetch itself changes nothing. -/
def Obligations.StepRunsDecodedInstruction : Prop :=
  ∀ (s u : State) (i : Instr), Ready s → i.wf s.cfg.variant = true →
    fetchBytes s.pc i.length s.atFetch = .done (encode i) u →
    step s = exec i u ∧ (s.cfg.switchDecode = [] → u = s.atFetch)

/-- R170, R435 items 1 to 4, R177, R489, R494: at a boundary the channel is published, then the first that applies of a
fault or stop, a pending halt, a pause request and a met budget ends the tick, and no instruction runs. That each of these
boundaries drops a pause request, one beside a pending halt among them, is the model's choice: log entry 16. -/
def Obligations.BoundaryOrder : Prop :=
  ∀ s : State, s.commands = [] → s.inTick = true →
    let t := { s.publish with pauseReq := false, inTick := false }
    (s.fault.isSome = true ∨ s.stopped = true → step s = .next t) ∧
    (s.fault = none → s.stopped = false →
      (∀ h, s.pendingHalt = some h →
        step s = .next
          { t with
            pendingHalt := none, ctrl := .paused (some h.reason)
            events := s.events ++ [.halted (.pause h.reason) (h.address.getD s.pc)] }) ∧
      (s.pendingHalt = none → s.pauseReq = true → step s = .next { t with ctrl := .paused none }) ∧
      (s.pendingHalt = none → s.pauseReq = false → s.budget ≤ s.tickCycles →
        step s = .next { t with events := s.events ++ [.tickCompleted s.tickCycles] }))

/-- R430, R431, R433, R435: at an open boundary a latched or arriving NMI is entered whatever I is, its latch cleared;
with no NMI an asserted IRQ is entered where I is clear. The entry takes the exception with PC pushed and B = 0, ends a
wait and costs 7. -/
def Obligations.InterruptsTaken : Prop :=
  ∀ s : State, BoundaryOpen s → s.cfg.mapsInRange →
    ((s.nmiLatch || s.pinsNow.nmiEdge) = true →
      ∃ t, takeException 0xFFFA s.pc false { s.atFetch with nmiLatch := false, waiting := false } = .done () t ∧
        step s = .next (t.complete 7)) ∧
    ((s.nmiLatch || s.pinsNow.nmiEdge) = false → s.pinsNow.irqLine = true → s.p.i = false →
      ∃ t, takeException 0xFFFE s.pc false { s.atFetch with waiting := false } = .done () t ∧
        step s = .next (t.complete 7))

/-- R411, R431: while it waits with no NMI and the IRQ line low, the engine charges one cycle and does nothing else; an
IRQ that I masks ends the wait with no entry: the step is that of the same machine not waiting. -/
def Obligations.WaitForInterrupt : Prop :=
  ∀ s : State, BoundaryOpen s → s.waiting = true → (s.nmiLatch || s.pinsNow.nmiEdge) = false →
    (s.pinsNow.irqLine = false → step s = .next { s.atFetch with tickCycles := s.tickCycles + 1 }) ∧
    (s.pinsNow.irqLine = true → s.p.i = true → step s = step { s with waiting := false })

/-- R441 to R443: at an invalid opcode, strict policy halts with PC at the opcode and the event; lenient policy moves PC
one byte on at a cost of one cycle; neither changes anything else after the opcode fetch (`skip_pc_bp` among it:
log entry 8). -/
def Obligations.InvalidOpcodePolicies : Prop :=
  ∀ (s u : State) (op : Byte), Ready s → fetch s.pc s.atFetch = .done op u →
    opcodeLength s.cfg.variant op = none →
    (s.cfg.invalidPolicy = .strict →
      step s = .next
        { u with
          ctrl := .halted .illegalOpcode, inTick := false
          events := s.events ++ [.halted (.halt .illegalOpcode) s.pc] }) ∧
    (s.cfg.invalidPolicy = .lenient →
      step s = .next { u with pc := s.pc + 1, tickCycles := s.tickCycles + 1 })

/-- R477: a PC breakpoint at an open, uninterrupted boundary, in the dense entry and, where the bank must match, in the
sparse one, pauses the engine before the fetch, with `skip_pc_bp` set so that the instruction runs next. -/
def Obligations.PcBreakpointPauses : Prop :=
  ∀ s : State, BoundaryOpen s → Uninterrupted s → s.skipPcBp = false → s.dense s.pc.toNat &&& 0x01 ≠ 0 →
    (s.cfg.bpBankExact = false ∨ s.sparse (s.phys .read s.pc) &&& 0x01 ≠ 0) →
    step s = .next
      { s.atFetch with
        ctrl := .paused (some .breakpoint), skipPcBp := true, inTick := false
        events := s.events ++ [.halted (.pause .breakpoint) s.pc] }

/-- R490, R178, where the step is an instruction (an interrupt entry, a waiting cycle and an invalid opcode are not stated
here): a step command in Paused performs exactly one instruction, whatever the budget and whatever PC breakpoint is set
there, then pauses with the reason of a flagged halt, or of the step, publishes the channel and reports both events. After
STP it is Halted, and after an out-of-range access of the instruction it is Halted inside the fault, with the channel
published and both events reported as well. That `tick_cycles` counts from 0, and that a Halted step reports its own
halted event once and then tickCompleted, is the model's choice: log entry 12. -/
def Obligations.StepCommandRunsOne : Prop :=
  ∀ (s u : State) (i : Instr) (rest : List Arrival) (reason : Option PauseReason),
    s.commands = .now .step :: rest → s.ctrl = .paused reason → Uninterrupted s → i.wf s.cfg.variant = true →
    fetchBytes s.pc i.length { s with commands := rest, tickCycles := 0, pins := s.pins.tail } = .done (encode i) u →
    (∀ t, exec i u = .next t → i ≠ .stp →
      let why := match t.pendingHalt with
        | some h => h.reason
        | none => .step
      step s = .next
        { t.publish with
          pendingHalt := none, ctrl := .paused (some why)
          events := s.events ++ [.halted (.pause why) t.pc, .tickCompleted t.tickCycles] }) ∧
    (∀ t, exec i u = .next t → i = .stp →
      t.ctrl = .halted .stopped ∧
      step s = .next
        { t.publish with events := s.events ++ [.halted (.halt .stopped) t.pc, .tickCompleted t.tickCycles] }) ∧
    ∀ p h, exec i u = .fault (.outOfRange p h) →
      h.ctrl = .halted .outOfRange ∧
      step s = .fault (.outOfRange p
        { h.publish with events := s.events ++ [.halted (.halt .outOfRange) s.pc, .tickCompleted 0] })

/-! ### Breakpoints -/

/-- R476: a data read or write that hits in the dense entry and, where the bank must match, in the sparse one, flags a
halt unless one is pending. R230: breakpoints change nothing else of an instruction: with any other breakpoint table it
answers the same next state, but for the table itself and the halt it flags. -/
def Obligations.BreakpointsOnlyFlag : Prop :=
  (∀ (s t : State) (a : Addr) (v : Byte), memRead a s = .done v t →
    t.pendingHalt =
      if s.pendingHalt = none ∧ s.dense a.toNat &&& 0x02 ≠ 0 ∧
          (s.cfg.bpBankExact = false ∨ s.sparse (s.phys .read a) &&& 0x02 ≠ 0) then
        some { reason := .breakpoint, address := none }
      else s.pendingHalt) ∧
  (∀ (s t : State) (a : Addr) (v : Byte), memWrite a v s = .done () t →
    t.pendingHalt =
      if s.pendingHalt = none ∧ s.dense a.toNat &&& 0x04 ≠ 0 ∧
          (s.cfg.bpBankExact = false ∨ s.sparse (s.phys .write a) &&& 0x04 ≠ 0) then
        some { reason := .breakpoint, address := none }
      else s.pendingHalt) ∧
  ∀ (i : Instr) (s t : State) (dense sparse : List Host.Cell), exec i s = .next t →
    ∃ h, exec i { s with bpDense := dense, bpSparse := sparse } =
      .next { t with bpDense := dense, bpSparse := sparse, pendingHalt := h }

/-- R475: after every add, remove and clear, the dense entry of every logical address has exactly the flag bits of the
sparse entries whose physical address maps to it. -/
def Obligations.BreakpointTableAgrees : Prop :=
  ∀ (s : State) (d : BpDescriptor), Inv s →
    tableAgrees (addBreakpoint d s) ∧ tableAgrees (removeBreakpoint d s) ∧ tableAgrees (bpClear s)

/-- R470, R471, R472, R480, R481: a descriptor of a known kind (PC 01, read 02, write 04, access 06) whose end is not
before its address and lies below `MEM_SIZE` is accepted: enabled, it sets its kind's bits on exactly its range; a removal
clears those bits alone on exactly the range, whatever the enabled flag. Any other descriptor, and an added one that is
disabled, changes nothing. An edit changes nothing but the table, and the host's commands are these edits. -/
def Obligations.BreakpointEdits : Prop :=
  ∀ (s : State) (d : BpDescriptor), Inv s →
    let last := d.endAddress.getD d.address
    (∀ bits, kindFlags d.kind bits → d.address ≤ last → last < s.cfg.memSize →
      (d.enabled = true → ∀ p, (addBreakpoint d s).sparse p =
        if d.address ≤ p ∧ p ≤ last then s.sparse p ||| bits else s.sparse p) ∧
      ∀ p, (removeBreakpoint d s).sparse p =
        if d.address ≤ p ∧ p ≤ last then s.sparse p &&& ~~~bits else s.sparse p) ∧
    (d.enabled = false → addBreakpoint d s = s) ∧
    ((∀ bits, ¬ kindFlags d.kind bits) ∨ last < d.address ∨ s.cfg.memSize ≤ last →
      addBreakpoint d s = s ∧ removeBreakpoint d s = s) ∧
    (∃ dense sparse, addBreakpoint d s = { s with bpDense := dense, bpSparse := sparse }) ∧
    (∃ dense sparse, removeBreakpoint d s = { s with bpDense := dense, bpSparse := sparse }) ∧
    ∀ rest,
      (s.commands = .now (.addBreakpoint d) :: rest → step s = .next (addBreakpoint d { s with commands := rest })) ∧
      (s.commands = .now (.removeBreakpoint d) :: rest →
        step s = .next (removeBreakpoint d { s with commands := rest }))

/-! ### Reset, init and the controller -/

/-- R520 to R523: a reset clears the run state, loads A, X, Y, S, the flags and the switches only where it is cold, reads PC
from 0xFFFC and 0xFFFD, and ends Paused(none) with the channel published; nothing else changes. That it also drops a pause
request and the tick in progress, which the rule does not list, is the model's choice: log entry 24. -/
def Obligations.ResetEffects : Prop :=
  ∀ (s : State) (cold : Bool), s.cfg.mapsInRange →
    let r := s.cfg.resetRegs
    let base := if cold = true then
        { s with a := r.a, x := r.x, y := r.y, sp := r.sp, p := r.p, sw := s.cfg.switchDefault }
      else s
    let cleared : State :=
      { base with
        nmiLatch := false, waiting := false, stopped := false, pendingHalt := none, skipPcBp := false
        fault := none, tickCycles := 0, inTick := false, pauseReq := false }
    ∃ l u h w, busRead 0xFFFC cleared = .done l u ∧ busRead 0xFFFD u = .done h w ∧
      reset cold s = .next
        { w with
          pc := word16 h l, ctrl := .paused none
          channel :=
            { a := w.a, x := w.x, y := w.y, sp := w.sp, p := pbyte w.p true, pcLo := l, pcHi := h } }

/-- R525, R486, R47, R520, R521: a configuration is rejected, and changes nothing (log entry 13), where a chunk names a
bank at or above `BANK_COUNT`, is a hex string that is not pairs of digits, or runs past `MEM_SIZE`. Any other fills memory
with `INIT_FILL` and stores its chunks in order, each at `BANK_BASE(bank) + addr`, default `bank * 0x10000`, a later one
over an earlier. The cold reset loads the registers and flags, the switches from `SWITCH_DEFAULT`, and PC from the reset
vector, clears the run state and publishes the channel; the machine is then Stopped, with no breakpoint and the speed 1
(log entry 6). It completes where the map stays in range, and the host's command is it, between ticks (log entry 11). -/
def Obligations.InitLoadsMemory : Prop :=
  ∀ (s : State) (cfg : Config),
    ((∃ c ∈ cfg.chunks, ∀ bytes, ¬ c.accepted cfg bytes) → init cfg s = .next s) ∧
    (∀ loads : List (Chunk × List Byte), loads.map (·.1) = cfg.chunks →
      (∀ load ∈ loads, load.1.accepted cfg load.2) →
      (cfg.mapsInRange → ∃ t, init cfg s = .next t) ∧
      ∀ t, init cfg s = .next t →
        t.cfg = cfg ∧ t.ctrl = .stopped ∧ t.bpDense = [] ∧ t.bpSparse = [] ∧ t.speed = { num := 1, den := 1 } ∧
        (∀ q, t.memByte q = loadedByte cfg loads (fun _ => cfg.initFill) q) ∧
        t.a = cfg.resetRegs.a ∧ t.x = cfg.resetRegs.x ∧ t.y = cfg.resetRegs.y ∧ t.sp = cfg.resetRegs.sp ∧
        t.p = cfg.resetRegs.p ∧
        (∃ l u h w, busRead 0xFFFC { t with sw := cfg.switchDefault } = .done l u ∧ busRead 0xFFFD u = .done h w ∧
          t.pc = word16 h l ∧ t.sw = w.sw) ∧
        t.nmiLatch = false ∧ t.waiting = false ∧ t.stopped = false ∧ t.pendingHalt = none ∧ t.skipPcBp = false ∧
        t.fault = none ∧ t.tickCycles = 0 ∧ t.channel = t.publish.channel) ∧
    ∀ rest, s.commands = .now (.init cfg) :: rest → s.inTick = false →
      step s = init cfg { s with commands := rest }

/-- R491, R485: a machine that is Halted stays Halted with its reason, unless the step carries out a reset or an init. -/
def Obligations.HaltedIsTerminal : Prop :=
  ∀ (s t : State) (r : HaltReason), Inv s → s.ctrl = .halted r → step s = .next t →
    t.ctrl = .halted r ∨
      ∃ rest, (∃ cold, s.commands = .now (.reset cold) :: rest) ∨ ∃ cfg, s.commands = .now (.init cfg) :: rest

/-- R441, R524: no step changes the configuration, the invalid-opcode policy among it, but one that carries out an
init. -/
def Obligations.ConfigurationIsFixed : Prop :=
  ∀ s t : State, step s = .next t →
    t.cfg = s.cfg ∨ ∃ cfg rest, s.commands = .now (.init cfg) :: rest ∧ t.cfg = cfg

/-- R496, R34, R89: while CTRL is not Running, a host write of any byte of the register channel sets the register at once,
P by the six flag bits and a byte of PC with `skip_pc_bp` cleared; the channel shows it at the next publication (log
entry 14). A host memory write stores the byte and changes no switch, and is refused out of range with no change. While
Running none of these has a move, which the model refuses by name (log entry 23). R488, R489, R44: run goes to Running
from Stopped or Paused, setting PC where it gives an address; pause requests a pause while Running; a new speed is held for
the next tick. R492: a Running machine with no tick in progress begins one (log entry 5), with no cycle counted and
the budget floor(`CLOCK_HZ` * multiplier * seconds); any other stays as it is. -/
def Obligations.HostEditsAndCommands : Prop :=
  ∀ (s : State) (rest : List Arrival),
    let t := { s with commands := rest }
    (s.ctrl ≠ .running →
      (∀ v : Byte,
        (s.commands = .now (.writeChannel 0 v) :: rest → step s = .next { t with a := v }) ∧
        (s.commands = .now (.writeChannel 1 v) :: rest → step s = .next { t with x := v }) ∧
        (s.commands = .now (.writeChannel 2 v) :: rest → step s = .next { t with y := v }) ∧
        (s.commands = .now (.writeChannel 3 v) :: rest → step s = .next { t with sp := v }) ∧
        (s.commands = .now (.writeChannel 4 v) :: rest →
          step s = .next
            { t with
              p :=
                { n := v.getLsbD 7, v := v.getLsbD 6, d := v.getLsbD 3
                  i := v.getLsbD 2, z := v.getLsbD 1, c := v.getLsbD 0 } }) ∧
        (s.commands = .now (.writeChannel 5 v) :: rest →
          step s = .next { t with pc := word16 (hi s.pc) v, skipPcBp := false }) ∧
        (s.commands = .now (.writeChannel 6 v) :: rest →
          step s = .next { t with pc := word16 v (lo s.pc), skipPcBp := false })) ∧
      ∀ a v, s.commands = .now (.debugWrite a v) :: rest →
        (s.phys .write a < s.cfg.memSize →
          step s = .next { t with mem := Memory.write s.cfg.initFill s.mem (s.phys .write a) v }) ∧
        (s.cfg.memSize ≤ s.phys .write a → step s = .next t)) ∧
    (s.ctrl = .running →
      (∀ offset v, s.commands = .now (.writeChannel offset v) :: rest → step s = .refused .hostEditWhileRunning) ∧
      ∀ a v, s.commands = .now (.debugWrite a v) :: rest → step s = .refused .hostEditWhileRunning) ∧
    (s.ctrl = .stopped ∨ (∃ reason, s.ctrl = .paused reason) →
      (s.commands = .now (.run none) :: rest → step s = .next { t with ctrl := .running }) ∧
      ∀ a, s.commands = .now (.run (some a)) :: rest →
        step s = .next { t with ctrl := .running, pc := a, skipPcBp := false }) ∧
    (s.ctrl = .running ∨ (∃ reason, s.ctrl = .halted reason) →
      ∀ start, s.commands = .now (.run start) :: rest → step s = .next t) ∧
    (s.commands = .now .pause :: rest →
      (s.ctrl = .running → step s = .next { t with pauseReq := true }) ∧
      (s.ctrl ≠ .running → step s = .next t)) ∧
    (∀ m, s.commands = .now (.setSpeed m) :: rest → step s = .next { t with speed := m }) ∧
    (s.commands = [] → s.inTick = false →
      (s.ctrl = .running → ∃ budget,
        step s = .next { s with inTick := true, tickCycles := 0, budget := budget } ∧
        (0 < s.speed.den → 0 < s.tickLength.den →
          budget * (s.speed.den * s.tickLength.den) ≤ s.cfg.clockHz * s.speed.num * s.tickLength.num ∧
          s.cfg.clockHz * s.speed.num * s.tickLength.num < (budget + 1) * (s.speed.den * s.tickLength.den))) ∧
      (s.ctrl ≠ .running → step s = .next s))

/-- R502, R503, R500: the instruction before a target, over `debugRead` with `RESYNC_WINDOW`: a distance lands exactly
where decoding forward from the target less it, every opcode valid, ends with an instruction that ends at the target; the
answer is that instruction's address for the smallest distance of the window that lands, and the target less 1 where none
does. A line is the instruction whose encoding stands at the address, with its length and base cost; an opcode of no
instruction of the variant gives the invalid line of length and cost 1. That a stream which meets a byte `debugRead`
refuses does not land, and that a distance of 65536 or more counts its bytes round the address space, is the model's choice:
log entry 17. -/
def Obligations.BackwardResynchronisation : Prop :=
  (∀ (v : Variant) (readByte : Addr → Option Byte) (window : Nat) (target : Addr),
    let lands := fun (d : Nat) (a : Addr) => ForwardLands v readByte (target - BitVec.ofNat 16 d) d a
    (∀ d a, 1 ≤ d → d ≤ window → (∀ e b, 1 ≤ e → e < d → ¬ lands e b) → lands d a →
      previousInstr v readByte window target = a) ∧
    ((∀ d a, 1 ≤ d → d ≤ window → ¬ lands d a) → previousInstr v readByte window target = target - 1) ∧
    (∀ d a, landsOn v readByte d d (target - BitVec.ofNat 16 d) = some a ↔ lands d a) ∧
    ∀ d a, lands d a → ∃ l i, decodeOne v readByte a = some l ∧ l.instr = some i ∧ a + BitVec.ofNat 16 l.length = target) ∧
  (∀ (s : State) (target : Addr),
    s.previousInstr target = previousInstr s.cfg.variant (debugRead s) s.cfg.resyncWindow target) ∧
  ∀ (v : Variant) (readByte : Addr → Option Byte) (a : Addr),
    (∀ i : Instr, i.wf v = true → readBytes readByte a i.length = some (encode i) →
      decodeOne v readByte a =
        some { address := a, raw := encode i, instr := some i, length := i.length, cycles := i.baseCycles v }) ∧
    ∀ op : Byte, readByte a = some op → (∀ i : Instr, i.wf v = true → i.opcode ≠ op) →
      decodeOne v readByte a = some { address := a, raw := [op], instr := none, length := 1, cycles := 1 }

/-! ### Invariant -/

/-- R46, R40, R42, R475: the invariant holds after reset. -/
def Obligations.InvAtReset : Prop := Inv State.reset

/-- R40, R42, R43, R475: every step from a state with the invariant that answers a next state keeps it: memory and the
breakpoint tables stay canonical and inside their spaces, the tables agree, and `CTRL` agrees with the run state. -/
def Obligations.StepKeepsInv : Prop := ∀ s t : State, Inv s → step s = .next t → Inv t

/-! ### Frames -/

/-- R30 to R32: A, X, Y and S are changed only by the instructions the spec lists as writing them. -/
def Obligations.RegisterFrame : Prop :=
  ∀ (i : Instr) (s t : State), exec i s = .next t →
    (i.mnemonic ∉ accumulatorWriters → ¬ (i.mnemonic ∈ accumulatorFormWriters ∧ i.operand = .acc) → t.a = s.a) ∧
    (i.mnemonic ∉ xWriters → t.x = s.x) ∧
    (i.mnemonic ∉ yWriters → t.y = s.y) ∧
    (i.mnemonic ∉ stackPointerWriters → t.sp = s.sp)

/-- R35: each flag is changed only by the instructions its row lists: BIT immediate writes neither N nor V, and BRK clears
D on CMOS alone. -/
def Obligations.FlagFrame : Prop :=
  ∀ (i : Instr) (s t : State), exec i s = .next t →
    (i.mnemonic ∉ negativeWriters ∨ (i.mnemonic = .bit ∧ i.operand.mode = .imm) → t.p.n = s.p.n) ∧
    (i.mnemonic ∉ overflowWriters ∨ (i.mnemonic = .bit ∧ i.operand.mode = .imm) → t.p.v = s.p.v) ∧
    (i.mnemonic ∉ decimalWriters ∨ (i = .brk ∧ s.cfg.variant = .nmos6502) → t.p.d = s.p.d) ∧
    (i.mnemonic ∉ interruptWriters → t.p.i = s.p.i) ∧
    (i.mnemonic ∉ zeroWriters → t.p.z = s.p.z) ∧
    (i.mnemonic ∉ carryWriters → t.p.c = s.p.c)

/-- R40, R95, R96, R260: an instruction that stores nothing leaves every byte; a store and a read-modify-write leave every
byte but the one their effective address resolves to for the write, a push all but the stack byte, JSR all but two and BRK
all but three. -/
def Obligations.MemoryFrame : Prop :=
  ∀ (i : Instr) (s t : State), Memory.wf s.cfg.initFill s.mem → exec i s = .next t →
    (i.storesNothing = true → ∀ p, t.memByte p = s.memByte p) ∧
    (∀ pl ea u, (storeValue i.mnemonic).isSome = true → i.operand = .mem pl →
      effAddr pl (s.advance i) = .done ea u → ∀ p, p ≠ u.phys .write ea.addr → t.memByte p = s.memByte p) ∧
    (∀ pl ea u m v, i.mnemonic ∈ modifyingMnemonics → i.operand = .mem pl →
      effAddr pl (s.advance i) = .done ea u → memRead ea.addr u = .done m v →
      ∀ p, p ≠ v.phys .write ea.addr → t.memByte p = s.memByte p) ∧
    (∀ f, pushValue i.mnemonic = some f →
      ∀ p, p ≠ s.phys .write (0x0100 + zext16 s.sp) → t.memByte p = s.memByte p) ∧
    (∀ a u, i = .jsr a → push (hi (s.pc + 2)) (s.advance i) = .done () u →
      ∀ p, p ≠ s.phys .write (0x0100 + zext16 s.sp) → p ≠ u.phys .write (0x0100 + zext16 (s.sp - 1)) →
        t.memByte p = s.memByte p) ∧
    ∀ u w, i = .brk → push (hi (s.pc + 2)) (s.advance i) = .done () u → push (lo (s.pc + 2)) u = .done () w →
      ∀ p, p ≠ s.phys .write (0x0100 + zext16 s.sp) → p ≠ u.phys .write (0x0100 + zext16 (s.sp - 1)) →
        p ≠ w.phys .write (0x0100 + zext16 (s.sp - 2)) → t.memByte p = s.memByte p

/-- R30 to R45, R411, R412, R476, R479: what no instruction changes: the breakpoint table, the NMI latch, the fault, the speed,
the channel, the configuration, the tick in progress, the inputs; `waiting` but by WAI; `stopped`, `CTRL` and the events but
by STP; a halt already pending; and the switches on a machine that has none. A data breakpoint keeps a pending halt by
R476; that BRK with BREAK_ON_BRK keeps it is R479, against the pseudocode of BRK's own rule, and the model's choice: log entry 10. -/
def Obligations.MachineFrame : Prop :=
  ∀ (i : Instr) (s t : State), exec i s = .next t →
    t.bpDense = s.bpDense ∧ t.bpSparse = s.bpSparse ∧ t.nmiLatch = s.nmiLatch ∧ t.fault = s.fault ∧
    t.speed = s.speed ∧ t.channel = s.channel ∧ t.cfg = s.cfg ∧ t.inTick = s.inTick ∧ t.budget = s.budget ∧
    t.tickLength = s.tickLength ∧ t.pauseReq = s.pauseReq ∧ t.pins = s.pins ∧ t.commands = s.commands ∧
    (i ≠ .wai → t.waiting = s.waiting) ∧
    (i ≠ .stp → t.stopped = s.stopped ∧ t.ctrl = s.ctrl ∧ t.events = s.events) ∧
    (s.pendingHalt.isSome = true → t.pendingHalt = s.pendingHalt) ∧
    (s.cfg.switchDecode = [] → t.sw = s.sw)
end

