-- ==== Sys2Proof/Laws/Memory.lean ====
section
/-! SUPPORT. Laws of the sparse byte tables: read after write, canonical form kept, and equality of canonical tables. -/

namespace Sys2Proof.Machine

variable {fill : Byte}

@[simp] theorem Memory.read_nil (p : Nat) : Memory.read fill [] p = fill := rfl

/-- An address below every listed one reads as unlisted. -/
theorem Memory.read_of_lt {m : List Host.Cell} {p : Nat} (h : ∀ c ∈ m, p < c.1) : Memory.read fill m p = fill := by
  induction m with
  | nil => rfl
  | cons c m ih =>
    obtain ⟨k, b⟩ := c
    have hk : p < k := h (k, b) (by simp)
    simp only [Memory.read, if_neg (Nat.ne_of_gt hk)]
    exact ih fun c hc => h c (by simp [hc])

/-- A listed byte of a table with rising addresses is what its address reads as. -/
theorem Memory.read_of_mem {m : List Host.Cell} (h : m.Pairwise (fun c d => c.1 < d.1)) {c : Host.Cell} (hc : c ∈ m) :
    Memory.read fill m c.1 = c.2 := by
  induction m with
  | nil => simp at hc
  | cons d m ih =>
    obtain ⟨k, b⟩ := d
    rw [List.pairwise_cons] at h
    rcases List.mem_cons.1 hc with rfl | hm
    · simp [Memory.read]
    · have := h.1 c hm
      simp only [Memory.read, if_neg (Nat.ne_of_lt this)]
      exact ih h.2 hm

/-- A written address reads as the byte written, every other address as before. -/
theorem Memory.read_write {m : List Host.Cell} (h : m.Pairwise (fun c d => c.1 < d.1)) (p q : Nat) (v : Byte) :
    Memory.read fill (Memory.write fill m p v) q = if q = p then v else Memory.read fill m q := by
  induction m with
  | nil =>
    by_cases hv : v = fill <;> by_cases hq : q = p <;> simp [Memory.write, Memory.read, hv, hq]
    exact fun hpq => absurd hpq.symm hq
  | cons c m ih =>
    obtain ⟨k, b⟩ := c
    rw [List.pairwise_cons] at h
    have hlt : ∀ c ∈ m, k < c.1 := fun c hc => h.1 c hc
    have hk : Memory.read fill m k = fill := Memory.read_of_lt hlt
    simp only [Memory.write]
    rcases Nat.lt_trichotomy p k with hp | hp | hp
    · have hpm : Memory.read fill m p = fill :=
        Memory.read_of_lt fun c hc => Nat.lt_trans hp (hlt c hc)
      rw [if_pos hp]
      by_cases hv : v = fill
      · rw [if_pos hv]
        by_cases hq : q = p
        · subst hq; simp [Memory.read, Nat.ne_of_gt hp, hpm, hv]
        · simp [hq]
      · rw [if_neg hv]
        by_cases hq : q = p
        · subst hq; simp [Memory.read]
        · simp [Memory.read, hq, Ne.symm hq]
    · subst hp
      rw [if_neg (Nat.lt_irrefl p), if_pos rfl]
      by_cases hv : v = fill
      · rw [if_pos hv]
        by_cases hq : q = p
        · subst hq; simp [hk, hv]
        · simp [Memory.read, hq, Ne.symm hq]
      · rw [if_neg hv]
        by_cases hq : q = p
        · subst hq; simp [Memory.read]
        · simp [Memory.read, hq, Ne.symm hq]
    · rw [if_neg (Nat.not_lt.2 (Nat.le_of_lt hp)), if_neg (Nat.ne_of_gt hp)]
      by_cases hkq : k = q
      · subst hkq
        simp [Memory.read, Nat.ne_of_lt hp]
      · simp only [Memory.read, if_neg hkq]
        exact ih h.2

/-- Every cell after a write is a cell from before or the one written. -/
theorem Memory.mem_write {m : List Host.Cell} {p : Nat} {v : Byte} {c : Host.Cell}
    (hc : c ∈ Memory.write fill m p v) : c ∈ m ∨ c = (p, v) := by
  induction m with
  | nil =>
    by_cases hv : v = fill <;> simp [Memory.write, hv] at hc
    exact .inr hc
  | cons d m ih =>
    obtain ⟨k, b⟩ := d
    simp only [Memory.write] at hc
    split at hc
    · split at hc
      · exact .inl hc
      · rcases List.mem_cons.1 hc with rfl | h
        · exact .inr rfl
        · exact .inl h
    · split at hc
      · rename_i hpk
        split at hc
        · exact .inl (List.mem_cons_of_mem _ hc)
        · rcases List.mem_cons.1 hc with rfl | h
          · exact .inr (by rw [hpk])
          · exact .inl (List.mem_cons_of_mem _ h)
      · rcases List.mem_cons.1 hc with rfl | h
        · exact .inl (by simp)
        · rcases ih h with h | h
          · exact .inl (List.mem_cons_of_mem _ h)
          · exact .inr h

/-- A write keeps the canonical form. -/
theorem Memory.write_wf {m : List Host.Cell} (h : Memory.wf fill m) (p : Nat) (v : Byte) :
    Memory.wf fill (Memory.write fill m p v) := by
  obtain ⟨hs, hf⟩ := h
  induction m with
  | nil => by_cases hv : v = fill <;> simp [Memory.wf, Memory.write, hv]
  | cons c m ih =>
    obtain ⟨k, b⟩ := c
    rw [List.pairwise_cons] at hs
    have hm : Memory.wf fill m := ⟨hs.2, fun c hc => hf c (by simp [hc])⟩
    have hb : b ≠ fill := hf (k, b) (by simp)
    simp only [Memory.write]
    split
    · rename_i hp
      split
      · exact ⟨List.pairwise_cons.2 hs, hf⟩
      · rename_i hv
        refine ⟨List.pairwise_cons.2 ⟨fun c hc => ?_, List.pairwise_cons.2 hs⟩, fun c hc => ?_⟩
        · rcases List.mem_cons.1 hc with rfl | hc
          · exact hp
          · exact Nat.lt_trans hp (hs.1 c hc)
        · rcases List.mem_cons.1 hc with rfl | hc
          · exact hv
          · exact hf c hc
    · split
      · split
        · exact hm
        · rename_i hv
          refine ⟨List.pairwise_cons.2 ⟨hs.1, hs.2⟩, fun c hc => ?_⟩
          rcases List.mem_cons.1 hc with rfl | hc
          · exact hv
          · exact hm.2 c hc
      · rename_i hlt hne
        have hkp : k < p := by omega
        have hw := ih hs.2 hm.2
        refine ⟨List.pairwise_cons.2 ⟨fun c hc => ?_, hw.1⟩, fun c hc => ?_⟩
        · rcases Memory.mem_write hc with hc | rfl
          · exact hs.1 c hc
          · exact hkp
        · rcases List.mem_cons.1 hc with rfl | hc
          · exact hb
          · exact hw.2 c hc

/-- An address reads as something else than the unlisted byte exactly where a canonical table lists it. -/
theorem Memory.read_ne_fill_iff {m : List Host.Cell} (h : Memory.wf fill m) (p : Nat) :
    Memory.read fill m p ≠ fill ↔ ∃ b, (p, b) ∈ m := by
  constructor
  · intro hr
    induction m with
    | nil => simp at hr
    | cons c m ih =>
      obtain ⟨k, b⟩ := c
      by_cases hk : k = p
      · exact ⟨b, by simp [hk]⟩
      · simp only [Memory.read, if_neg hk] at hr
        obtain ⟨b', hb'⟩ := ih ⟨(List.pairwise_cons.1 h.1).2, fun c hc => h.2 c (by simp [hc])⟩ hr
        exact ⟨b', by simp [hb']⟩
  · rintro ⟨b, hb⟩
    have := Memory.read_of_mem (fill := fill) h.1 hb
    rw [this]
    exact h.2 _ hb

/-- Canonical tables that read the same everywhere are the same list. -/
theorem Memory.ext {m n : List Host.Cell} (hm : Memory.wf fill m) (hn : Memory.wf fill n)
    (h : ∀ p, Memory.read fill m p = Memory.read fill n p) : m = n := by
  have mem_iff : ∀ {m n : List Host.Cell}, Memory.wf fill m → Memory.wf fill n →
      (∀ p, Memory.read fill m p = Memory.read fill n p) → ∀ c ∈ m, c ∈ n := by
    intro m n hm hn h c hc
    have h1 : Memory.read fill n c.1 = c.2 := by rw [← h, Memory.read_of_mem hm.1 hc]
    obtain ⟨b, hb⟩ := (Memory.read_ne_fill_iff hn c.1).1 (by rw [h1]; exact hm.2 c hc)
    have h2 := Memory.read_of_mem (fill := fill) hn.1 hb
    have : c = (c.1, b) := Prod.ext rfl (by rw [← h1]; exact h2)
    rw [this]; exact hb
  have nodup : ∀ {m : List Host.Cell}, Memory.wf fill m → m.Nodup := fun {m} hm =>
    hm.1.imp (fun {a b} hab he => by subst he; exact Nat.lt_irrefl _ hab)
  have perm : m.Perm n := (List.perm_ext_iff_of_nodup (nodup hm) (nodup hn)).2
    fun c => ⟨mem_iff hm hn h c, mem_iff hn hm (fun p => (h p).symm) c⟩
  exact perm.eq_of_pairwise (fun a b _ _ h1 h2 => absurd h1 (by omega)) hm.1 hn.1

/-- Storing a run of bytes keeps the canonical form. -/
theorem Memory.writeAll_wf {m : List Host.Cell} (h : Memory.wf fill m) (p : Nat) (bs : List Byte) :
    Memory.wf fill (Memory.writeAll fill m p bs) := by
  induction bs generalizing m p with
  | nil => exact h
  | cons b bs ih => exact ih (Memory.write_wf h p b) (p + 1)

/-- Every cell after a run of stores is a cell from before or lies in the run. -/
theorem Memory.mem_writeAll {m : List Host.Cell} {p : Nat} {bs : List Byte} {c : Host.Cell}
    (hc : c ∈ Memory.writeAll fill m p bs) : c ∈ m ∨ (p ≤ c.1 ∧ c.1 < p + bs.length) := by
  induction bs generalizing m p with
  | nil => exact .inl hc
  | cons b bs ih =>
    rcases ih hc with h | h
    · rcases Memory.mem_write h with h | rfl
      · exact .inl h
      · exact .inr ⟨Nat.le_refl _, by simp⟩
    · refine .inr ⟨by omega, ?_⟩
      simp only [List.length_cons]
      omega

end Sys2Proof.Machine
end

