-- ==== Sys2Proof/Laws/State.lean ====
section
/-! SUPPORT. What each named update of the state does to each field: one lemma per field and update. -/

namespace Sys2Proof.Machine

variable (s : State)

@[simp] theorem State.setFlagsP_a (q : Flags) : (s.setFlagsP q).a = s.a := rfl
@[simp] theorem State.setFlagsP_x (q : Flags) : (s.setFlagsP q).x = s.x := rfl
@[simp] theorem State.setFlagsP_y (q : Flags) : (s.setFlagsP q).y = s.y := rfl
@[simp] theorem State.setFlagsP_sp (q : Flags) : (s.setFlagsP q).sp = s.sp := rfl
@[simp] theorem State.setFlagsP_pc (q : Flags) : (s.setFlagsP q).pc = s.pc := rfl
@[simp] theorem State.setFlagsP_p (q : Flags) : (s.setFlagsP q).p = q := rfl
@[simp] theorem State.setFlagsP_sw (q : Flags) : (s.setFlagsP q).sw = s.sw := rfl
@[simp] theorem State.setFlagsP_mem (q : Flags) : (s.setFlagsP q).mem = s.mem := rfl
@[simp] theorem State.setFlagsP_bpDense (q : Flags) : (s.setFlagsP q).bpDense = s.bpDense := rfl
@[simp] theorem State.setFlagsP_bpSparse (q : Flags) : (s.setFlagsP q).bpSparse = s.bpSparse := rfl
@[simp] theorem State.setFlagsP_nmiLatch (q : Flags) : (s.setFlagsP q).nmiLatch = s.nmiLatch := rfl
@[simp] theorem State.setFlagsP_waiting (q : Flags) : (s.setFlagsP q).waiting = s.waiting := rfl
@[simp] theorem State.setFlagsP_stopped (q : Flags) : (s.setFlagsP q).stopped = s.stopped := rfl
@[simp] theorem State.setFlagsP_pendingHalt (q : Flags) : (s.setFlagsP q).pendingHalt = s.pendingHalt := rfl
@[simp] theorem State.setFlagsP_skipPcBp (q : Flags) : (s.setFlagsP q).skipPcBp = s.skipPcBp := rfl
@[simp] theorem State.setFlagsP_tickCycles (q : Flags) : (s.setFlagsP q).tickCycles = s.tickCycles := rfl
@[simp] theorem State.setFlagsP_fault (q : Flags) : (s.setFlagsP q).fault = s.fault := rfl
@[simp] theorem State.setFlagsP_ctrl (q : Flags) : (s.setFlagsP q).ctrl = s.ctrl := rfl
@[simp] theorem State.setFlagsP_speed (q : Flags) : (s.setFlagsP q).speed = s.speed := rfl
@[simp] theorem State.setFlagsP_channel (q : Flags) : (s.setFlagsP q).channel = s.channel := rfl
@[simp] theorem State.setFlagsP_cfg (q : Flags) : (s.setFlagsP q).cfg = s.cfg := rfl
@[simp] theorem State.setFlagsP_inTick (q : Flags) : (s.setFlagsP q).inTick = s.inTick := rfl
@[simp] theorem State.setFlagsP_budget (q : Flags) : (s.setFlagsP q).budget = s.budget := rfl
@[simp] theorem State.setFlagsP_tickLength (q : Flags) : (s.setFlagsP q).tickLength = s.tickLength := rfl
@[simp] theorem State.setFlagsP_pauseReq (q : Flags) : (s.setFlagsP q).pauseReq = s.pauseReq := rfl
@[simp] theorem State.setFlagsP_pins (q : Flags) : (s.setFlagsP q).pins = s.pins := rfl
@[simp] theorem State.setFlagsP_commands (q : Flags) : (s.setFlagsP q).commands = s.commands := rfl
@[simp] theorem State.setFlagsP_events (q : Flags) : (s.setFlagsP q).events = s.events := rfl

@[simp] theorem State.setPc_a (w : Addr) : (s.setPc w).a = s.a := rfl
@[simp] theorem State.setPc_x (w : Addr) : (s.setPc w).x = s.x := rfl
@[simp] theorem State.setPc_y (w : Addr) : (s.setPc w).y = s.y := rfl
@[simp] theorem State.setPc_sp (w : Addr) : (s.setPc w).sp = s.sp := rfl
@[simp] theorem State.setPc_pc (w : Addr) : (s.setPc w).pc = w := rfl
@[simp] theorem State.setPc_p (w : Addr) : (s.setPc w).p = s.p := rfl
@[simp] theorem State.setPc_sw (w : Addr) : (s.setPc w).sw = s.sw := rfl
@[simp] theorem State.setPc_mem (w : Addr) : (s.setPc w).mem = s.mem := rfl
@[simp] theorem State.setPc_bpDense (w : Addr) : (s.setPc w).bpDense = s.bpDense := rfl
@[simp] theorem State.setPc_bpSparse (w : Addr) : (s.setPc w).bpSparse = s.bpSparse := rfl
@[simp] theorem State.setPc_nmiLatch (w : Addr) : (s.setPc w).nmiLatch = s.nmiLatch := rfl
@[simp] theorem State.setPc_waiting (w : Addr) : (s.setPc w).waiting = s.waiting := rfl
@[simp] theorem State.setPc_stopped (w : Addr) : (s.setPc w).stopped = s.stopped := rfl
@[simp] theorem State.setPc_pendingHalt (w : Addr) : (s.setPc w).pendingHalt = s.pendingHalt := rfl
@[simp] theorem State.setPc_skipPcBp (w : Addr) : (s.setPc w).skipPcBp = s.skipPcBp := rfl
@[simp] theorem State.setPc_tickCycles (w : Addr) : (s.setPc w).tickCycles = s.tickCycles := rfl
@[simp] theorem State.setPc_fault (w : Addr) : (s.setPc w).fault = s.fault := rfl
@[simp] theorem State.setPc_ctrl (w : Addr) : (s.setPc w).ctrl = s.ctrl := rfl
@[simp] theorem State.setPc_speed (w : Addr) : (s.setPc w).speed = s.speed := rfl
@[simp] theorem State.setPc_channel (w : Addr) : (s.setPc w).channel = s.channel := rfl
@[simp] theorem State.setPc_cfg (w : Addr) : (s.setPc w).cfg = s.cfg := rfl
@[simp] theorem State.setPc_inTick (w : Addr) : (s.setPc w).inTick = s.inTick := rfl
@[simp] theorem State.setPc_budget (w : Addr) : (s.setPc w).budget = s.budget := rfl
@[simp] theorem State.setPc_tickLength (w : Addr) : (s.setPc w).tickLength = s.tickLength := rfl
@[simp] theorem State.setPc_pauseReq (w : Addr) : (s.setPc w).pauseReq = s.pauseReq := rfl
@[simp] theorem State.setPc_pins (w : Addr) : (s.setPc w).pins = s.pins := rfl
@[simp] theorem State.setPc_commands (w : Addr) : (s.setPc w).commands = s.commands := rfl
@[simp] theorem State.setPc_events (w : Addr) : (s.setPc w).events = s.events := rfl

@[simp] theorem State.setReg_pc (r : Reg) (v : Byte) : (s.setReg r v).pc = s.pc := by cases r <;> rfl
@[simp] theorem State.setReg_p (r : Reg) (v : Byte) : (s.setReg r v).p = s.p := by cases r <;> rfl
@[simp] theorem State.setReg_sw (r : Reg) (v : Byte) : (s.setReg r v).sw = s.sw := by cases r <;> rfl
@[simp] theorem State.setReg_mem (r : Reg) (v : Byte) : (s.setReg r v).mem = s.mem := by cases r <;> rfl
@[simp] theorem State.setReg_bpDense (r : Reg) (v : Byte) : (s.setReg r v).bpDense = s.bpDense := by cases r <;> rfl
@[simp] theorem State.setReg_bpSparse (r : Reg) (v : Byte) : (s.setReg r v).bpSparse = s.bpSparse := by cases r <;> rfl
@[simp] theorem State.setReg_nmiLatch (r : Reg) (v : Byte) : (s.setReg r v).nmiLatch = s.nmiLatch := by cases r <;> rfl
@[simp] theorem State.setReg_waiting (r : Reg) (v : Byte) : (s.setReg r v).waiting = s.waiting := by cases r <;> rfl
@[simp] theorem State.setReg_stopped (r : Reg) (v : Byte) : (s.setReg r v).stopped = s.stopped := by cases r <;> rfl
@[simp] theorem State.setReg_pendingHalt (r : Reg) (v : Byte) : (s.setReg r v).pendingHalt = s.pendingHalt := by cases r <;> rfl
@[simp] theorem State.setReg_skipPcBp (r : Reg) (v : Byte) : (s.setReg r v).skipPcBp = s.skipPcBp := by cases r <;> rfl
@[simp] theorem State.setReg_tickCycles (r : Reg) (v : Byte) : (s.setReg r v).tickCycles = s.tickCycles := by cases r <;> rfl
@[simp] theorem State.setReg_fault (r : Reg) (v : Byte) : (s.setReg r v).fault = s.fault := by cases r <;> rfl
@[simp] theorem State.setReg_ctrl (r : Reg) (v : Byte) : (s.setReg r v).ctrl = s.ctrl := by cases r <;> rfl
@[simp] theorem State.setReg_speed (r : Reg) (v : Byte) : (s.setReg r v).speed = s.speed := by cases r <;> rfl
@[simp] theorem State.setReg_channel (r : Reg) (v : Byte) : (s.setReg r v).channel = s.channel := by cases r <;> rfl
@[simp] theorem State.setReg_cfg (r : Reg) (v : Byte) : (s.setReg r v).cfg = s.cfg := by cases r <;> rfl
@[simp] theorem State.setReg_inTick (r : Reg) (v : Byte) : (s.setReg r v).inTick = s.inTick := by cases r <;> rfl
@[simp] theorem State.setReg_budget (r : Reg) (v : Byte) : (s.setReg r v).budget = s.budget := by cases r <;> rfl
@[simp] theorem State.setReg_tickLength (r : Reg) (v : Byte) : (s.setReg r v).tickLength = s.tickLength := by cases r <;> rfl
@[simp] theorem State.setReg_pauseReq (r : Reg) (v : Byte) : (s.setReg r v).pauseReq = s.pauseReq := by cases r <;> rfl
@[simp] theorem State.setReg_pins (r : Reg) (v : Byte) : (s.setReg r v).pins = s.pins := by cases r <;> rfl
@[simp] theorem State.setReg_commands (r : Reg) (v : Byte) : (s.setReg r v).commands = s.commands := by cases r <;> rfl
@[simp] theorem State.setReg_events (r : Reg) (v : Byte) : (s.setReg r v).events = s.events := by cases r <;> rfl

@[simp] theorem State.setRegNZ_pc (r : Reg) (v : Byte) : (s.setRegNZ r v).pc = s.pc := by cases r <;> rfl
@[simp] theorem State.setRegNZ_p (r : Reg) (v : Byte) : (s.setRegNZ r v).p = setNZ v s.p := by cases r <;> rfl
@[simp] theorem State.setRegNZ_sw (r : Reg) (v : Byte) : (s.setRegNZ r v).sw = s.sw := by cases r <;> rfl
@[simp] theorem State.setRegNZ_mem (r : Reg) (v : Byte) : (s.setRegNZ r v).mem = s.mem := by cases r <;> rfl
@[simp] theorem State.setRegNZ_bpDense (r : Reg) (v : Byte) : (s.setRegNZ r v).bpDense = s.bpDense := by cases r <;> rfl
@[simp] theorem State.setRegNZ_bpSparse (r : Reg) (v : Byte) : (s.setRegNZ r v).bpSparse = s.bpSparse := by cases r <;> rfl
@[simp] theorem State.setRegNZ_nmiLatch (r : Reg) (v : Byte) : (s.setRegNZ r v).nmiLatch = s.nmiLatch := by cases r <;> rfl
@[simp] theorem State.setRegNZ_waiting (r : Reg) (v : Byte) : (s.setRegNZ r v).waiting = s.waiting := by cases r <;> rfl
@[simp] theorem State.setRegNZ_stopped (r : Reg) (v : Byte) : (s.setRegNZ r v).stopped = s.stopped := by cases r <;> rfl
@[simp] theorem State.setRegNZ_pendingHalt (r : Reg) (v : Byte) : (s.setRegNZ r v).pendingHalt = s.pendingHalt := by cases r <;> rfl
@[simp] theorem State.setRegNZ_skipPcBp (r : Reg) (v : Byte) : (s.setRegNZ r v).skipPcBp = s.skipPcBp := by cases r <;> rfl
@[simp] theorem State.setRegNZ_tickCycles (r : Reg) (v : Byte) : (s.setRegNZ r v).tickCycles = s.tickCycles := by cases r <;> rfl
@[simp] theorem State.setRegNZ_fault (r : Reg) (v : Byte) : (s.setRegNZ r v).fault = s.fault := by cases r <;> rfl
@[simp] theorem State.setRegNZ_ctrl (r : Reg) (v : Byte) : (s.setRegNZ r v).ctrl = s.ctrl := by cases r <;> rfl
@[simp] theorem State.setRegNZ_speed (r : Reg) (v : Byte) : (s.setRegNZ r v).speed = s.speed := by cases r <;> rfl
@[simp] theorem State.setRegNZ_channel (r : Reg) (v : Byte) : (s.setRegNZ r v).channel = s.channel := by cases r <;> rfl
@[simp] theorem State.setRegNZ_cfg (r : Reg) (v : Byte) : (s.setRegNZ r v).cfg = s.cfg := by cases r <;> rfl
@[simp] theorem State.setRegNZ_inTick (r : Reg) (v : Byte) : (s.setRegNZ r v).inTick = s.inTick := by cases r <;> rfl
@[simp] theorem State.setRegNZ_budget (r : Reg) (v : Byte) : (s.setRegNZ r v).budget = s.budget := by cases r <;> rfl
@[simp] theorem State.setRegNZ_tickLength (r : Reg) (v : Byte) : (s.setRegNZ r v).tickLength = s.tickLength := by cases r <;> rfl
@[simp] theorem State.setRegNZ_pauseReq (r : Reg) (v : Byte) : (s.setRegNZ r v).pauseReq = s.pauseReq := by cases r <;> rfl
@[simp] theorem State.setRegNZ_pins (r : Reg) (v : Byte) : (s.setRegNZ r v).pins = s.pins := by cases r <;> rfl
@[simp] theorem State.setRegNZ_commands (r : Reg) (v : Byte) : (s.setRegNZ r v).commands = s.commands := by cases r <;> rfl
@[simp] theorem State.setRegNZ_events (r : Reg) (v : Byte) : (s.setRegNZ r v).events = s.events := by cases r <;> rfl

@[simp] theorem State.setMemByte_a (n : Nat) (v : Byte) : (s.setMemByte n v).a = s.a := rfl
@[simp] theorem State.setMemByte_x (n : Nat) (v : Byte) : (s.setMemByte n v).x = s.x := rfl
@[simp] theorem State.setMemByte_y (n : Nat) (v : Byte) : (s.setMemByte n v).y = s.y := rfl
@[simp] theorem State.setMemByte_sp (n : Nat) (v : Byte) : (s.setMemByte n v).sp = s.sp := rfl
@[simp] theorem State.setMemByte_pc (n : Nat) (v : Byte) : (s.setMemByte n v).pc = s.pc := rfl
@[simp] theorem State.setMemByte_p (n : Nat) (v : Byte) : (s.setMemByte n v).p = s.p := rfl
@[simp] theorem State.setMemByte_sw (n : Nat) (v : Byte) : (s.setMemByte n v).sw = s.sw := rfl
@[simp] theorem State.setMemByte_mem (n : Nat) (v : Byte) : (s.setMemByte n v).mem = Memory.write s.cfg.initFill s.mem n v := rfl
@[simp] theorem State.setMemByte_bpDense (n : Nat) (v : Byte) : (s.setMemByte n v).bpDense = s.bpDense := rfl
@[simp] theorem State.setMemByte_bpSparse (n : Nat) (v : Byte) : (s.setMemByte n v).bpSparse = s.bpSparse := rfl
@[simp] theorem State.setMemByte_nmiLatch (n : Nat) (v : Byte) : (s.setMemByte n v).nmiLatch = s.nmiLatch := rfl
@[simp] theorem State.setMemByte_waiting (n : Nat) (v : Byte) : (s.setMemByte n v).waiting = s.waiting := rfl
@[simp] theorem State.setMemByte_stopped (n : Nat) (v : Byte) : (s.setMemByte n v).stopped = s.stopped := rfl
@[simp] theorem State.setMemByte_pendingHalt (n : Nat) (v : Byte) : (s.setMemByte n v).pendingHalt = s.pendingHalt := rfl
@[simp] theorem State.setMemByte_skipPcBp (n : Nat) (v : Byte) : (s.setMemByte n v).skipPcBp = s.skipPcBp := rfl
@[simp] theorem State.setMemByte_tickCycles (n : Nat) (v : Byte) : (s.setMemByte n v).tickCycles = s.tickCycles := rfl
@[simp] theorem State.setMemByte_fault (n : Nat) (v : Byte) : (s.setMemByte n v).fault = s.fault := rfl
@[simp] theorem State.setMemByte_ctrl (n : Nat) (v : Byte) : (s.setMemByte n v).ctrl = s.ctrl := rfl
@[simp] theorem State.setMemByte_speed (n : Nat) (v : Byte) : (s.setMemByte n v).speed = s.speed := rfl
@[simp] theorem State.setMemByte_channel (n : Nat) (v : Byte) : (s.setMemByte n v).channel = s.channel := rfl
@[simp] theorem State.setMemByte_cfg (n : Nat) (v : Byte) : (s.setMemByte n v).cfg = s.cfg := rfl
@[simp] theorem State.setMemByte_inTick (n : Nat) (v : Byte) : (s.setMemByte n v).inTick = s.inTick := rfl
@[simp] theorem State.setMemByte_budget (n : Nat) (v : Byte) : (s.setMemByte n v).budget = s.budget := rfl
@[simp] theorem State.setMemByte_tickLength (n : Nat) (v : Byte) : (s.setMemByte n v).tickLength = s.tickLength := rfl
@[simp] theorem State.setMemByte_pauseReq (n : Nat) (v : Byte) : (s.setMemByte n v).pauseReq = s.pauseReq := rfl
@[simp] theorem State.setMemByte_pins (n : Nat) (v : Byte) : (s.setMemByte n v).pins = s.pins := rfl
@[simp] theorem State.setMemByte_commands (n : Nat) (v : Byte) : (s.setMemByte n v).commands = s.commands := rfl
@[simp] theorem State.setMemByte_events (n : Nat) (v : Byte) : (s.setMemByte n v).events = s.events := rfl

@[simp] theorem State.emit_a (e : Event) : (s.emit e).a = s.a := rfl
@[simp] theorem State.emit_x (e : Event) : (s.emit e).x = s.x := rfl
@[simp] theorem State.emit_y (e : Event) : (s.emit e).y = s.y := rfl
@[simp] theorem State.emit_sp (e : Event) : (s.emit e).sp = s.sp := rfl
@[simp] theorem State.emit_pc (e : Event) : (s.emit e).pc = s.pc := rfl
@[simp] theorem State.emit_p (e : Event) : (s.emit e).p = s.p := rfl
@[simp] theorem State.emit_sw (e : Event) : (s.emit e).sw = s.sw := rfl
@[simp] theorem State.emit_mem (e : Event) : (s.emit e).mem = s.mem := rfl
@[simp] theorem State.emit_bpDense (e : Event) : (s.emit e).bpDense = s.bpDense := rfl
@[simp] theorem State.emit_bpSparse (e : Event) : (s.emit e).bpSparse = s.bpSparse := rfl
@[simp] theorem State.emit_nmiLatch (e : Event) : (s.emit e).nmiLatch = s.nmiLatch := rfl
@[simp] theorem State.emit_waiting (e : Event) : (s.emit e).waiting = s.waiting := rfl
@[simp] theorem State.emit_stopped (e : Event) : (s.emit e).stopped = s.stopped := rfl
@[simp] theorem State.emit_pendingHalt (e : Event) : (s.emit e).pendingHalt = s.pendingHalt := rfl
@[simp] theorem State.emit_skipPcBp (e : Event) : (s.emit e).skipPcBp = s.skipPcBp := rfl
@[simp] theorem State.emit_tickCycles (e : Event) : (s.emit e).tickCycles = s.tickCycles := rfl
@[simp] theorem State.emit_fault (e : Event) : (s.emit e).fault = s.fault := rfl
@[simp] theorem State.emit_ctrl (e : Event) : (s.emit e).ctrl = s.ctrl := rfl
@[simp] theorem State.emit_speed (e : Event) : (s.emit e).speed = s.speed := rfl
@[simp] theorem State.emit_channel (e : Event) : (s.emit e).channel = s.channel := rfl
@[simp] theorem State.emit_cfg (e : Event) : (s.emit e).cfg = s.cfg := rfl
@[simp] theorem State.emit_inTick (e : Event) : (s.emit e).inTick = s.inTick := rfl
@[simp] theorem State.emit_budget (e : Event) : (s.emit e).budget = s.budget := rfl
@[simp] theorem State.emit_tickLength (e : Event) : (s.emit e).tickLength = s.tickLength := rfl
@[simp] theorem State.emit_pauseReq (e : Event) : (s.emit e).pauseReq = s.pauseReq := rfl
@[simp] theorem State.emit_pins (e : Event) : (s.emit e).pins = s.pins := rfl
@[simp] theorem State.emit_commands (e : Event) : (s.emit e).commands = s.commands := rfl
@[simp] theorem State.emit_events (e : Event) : (s.emit e).events = s.events ++ [e] := rfl

@[simp] theorem State.publish_a : (s.publish).a = s.a := rfl
@[simp] theorem State.publish_x : (s.publish).x = s.x := rfl
@[simp] theorem State.publish_y : (s.publish).y = s.y := rfl
@[simp] theorem State.publish_sp : (s.publish).sp = s.sp := rfl
@[simp] theorem State.publish_pc : (s.publish).pc = s.pc := rfl
@[simp] theorem State.publish_p : (s.publish).p = s.p := rfl
@[simp] theorem State.publish_sw : (s.publish).sw = s.sw := rfl
@[simp] theorem State.publish_mem : (s.publish).mem = s.mem := rfl
@[simp] theorem State.publish_bpDense : (s.publish).bpDense = s.bpDense := rfl
@[simp] theorem State.publish_bpSparse : (s.publish).bpSparse = s.bpSparse := rfl
@[simp] theorem State.publish_nmiLatch : (s.publish).nmiLatch = s.nmiLatch := rfl
@[simp] theorem State.publish_waiting : (s.publish).waiting = s.waiting := rfl
@[simp] theorem State.publish_stopped : (s.publish).stopped = s.stopped := rfl
@[simp] theorem State.publish_pendingHalt : (s.publish).pendingHalt = s.pendingHalt := rfl
@[simp] theorem State.publish_skipPcBp : (s.publish).skipPcBp = s.skipPcBp := rfl
@[simp] theorem State.publish_tickCycles : (s.publish).tickCycles = s.tickCycles := rfl
@[simp] theorem State.publish_fault : (s.publish).fault = s.fault := rfl
@[simp] theorem State.publish_ctrl : (s.publish).ctrl = s.ctrl := rfl
@[simp] theorem State.publish_speed : (s.publish).speed = s.speed := rfl
@[simp] theorem State.publish_channel : (s.publish).channel = { a := s.a, x := s.x, y := s.y, sp := s.sp, p := pbyte s.p true, pcLo := lo s.pc, pcHi := hi s.pc } := rfl
@[simp] theorem State.publish_cfg : (s.publish).cfg = s.cfg := rfl
@[simp] theorem State.publish_inTick : (s.publish).inTick = s.inTick := rfl
@[simp] theorem State.publish_budget : (s.publish).budget = s.budget := rfl
@[simp] theorem State.publish_tickLength : (s.publish).tickLength = s.tickLength := rfl
@[simp] theorem State.publish_pauseReq : (s.publish).pauseReq = s.pauseReq := rfl
@[simp] theorem State.publish_pins : (s.publish).pins = s.pins := rfl
@[simp] theorem State.publish_commands : (s.publish).commands = s.commands := rfl
@[simp] theorem State.publish_events : (s.publish).events = s.events := rfl

@[simp] theorem State.complete_a (n : Nat) : (s.complete n).a = s.a := rfl
@[simp] theorem State.complete_x (n : Nat) : (s.complete n).x = s.x := rfl
@[simp] theorem State.complete_y (n : Nat) : (s.complete n).y = s.y := rfl
@[simp] theorem State.complete_sp (n : Nat) : (s.complete n).sp = s.sp := rfl
@[simp] theorem State.complete_pc (n : Nat) : (s.complete n).pc = s.pc := rfl
@[simp] theorem State.complete_p (n : Nat) : (s.complete n).p = s.p := rfl
@[simp] theorem State.complete_sw (n : Nat) : (s.complete n).sw = s.sw := rfl
@[simp] theorem State.complete_mem (n : Nat) : (s.complete n).mem = s.mem := rfl
@[simp] theorem State.complete_bpDense (n : Nat) : (s.complete n).bpDense = s.bpDense := rfl
@[simp] theorem State.complete_bpSparse (n : Nat) : (s.complete n).bpSparse = s.bpSparse := rfl
@[simp] theorem State.complete_nmiLatch (n : Nat) : (s.complete n).nmiLatch = s.nmiLatch := rfl
@[simp] theorem State.complete_waiting (n : Nat) : (s.complete n).waiting = s.waiting := rfl
@[simp] theorem State.complete_stopped (n : Nat) : (s.complete n).stopped = s.stopped := rfl
@[simp] theorem State.complete_pendingHalt (n : Nat) : (s.complete n).pendingHalt = s.pendingHalt := rfl
@[simp] theorem State.complete_skipPcBp (n : Nat) : (s.complete n).skipPcBp = false := rfl
@[simp] theorem State.complete_tickCycles (n : Nat) : (s.complete n).tickCycles = s.tickCycles + n := rfl
@[simp] theorem State.complete_fault (n : Nat) : (s.complete n).fault = s.fault := rfl
@[simp] theorem State.complete_ctrl (n : Nat) : (s.complete n).ctrl = s.ctrl := rfl
@[simp] theorem State.complete_speed (n : Nat) : (s.complete n).speed = s.speed := rfl
@[simp] theorem State.complete_channel (n : Nat) : (s.complete n).channel = s.channel := rfl
@[simp] theorem State.complete_cfg (n : Nat) : (s.complete n).cfg = s.cfg := rfl
@[simp] theorem State.complete_inTick (n : Nat) : (s.complete n).inTick = s.inTick := rfl
@[simp] theorem State.complete_budget (n : Nat) : (s.complete n).budget = s.budget := rfl
@[simp] theorem State.complete_tickLength (n : Nat) : (s.complete n).tickLength = s.tickLength := rfl
@[simp] theorem State.complete_pauseReq (n : Nat) : (s.complete n).pauseReq = s.pauseReq := rfl
@[simp] theorem State.complete_pins (n : Nat) : (s.complete n).pins = s.pins := rfl
@[simp] theorem State.complete_commands (n : Nat) : (s.complete n).commands = s.commands := rfl
@[simp] theorem State.complete_events (n : Nat) : (s.complete n).events = s.events := rfl

@[simp] theorem State.advance_a (i : Instr) : (s.advance i).a = s.a := rfl
@[simp] theorem State.advance_x (i : Instr) : (s.advance i).x = s.x := rfl
@[simp] theorem State.advance_y (i : Instr) : (s.advance i).y = s.y := rfl
@[simp] theorem State.advance_sp (i : Instr) : (s.advance i).sp = s.sp := rfl
@[simp] theorem State.advance_pc (i : Instr) : (s.advance i).pc = s.pc + BitVec.ofNat 16 i.length := rfl
@[simp] theorem State.advance_p (i : Instr) : (s.advance i).p = s.p := rfl
@[simp] theorem State.advance_sw (i : Instr) : (s.advance i).sw = s.sw := rfl
@[simp] theorem State.advance_mem (i : Instr) : (s.advance i).mem = s.mem := rfl
@[simp] theorem State.advance_bpDense (i : Instr) : (s.advance i).bpDense = s.bpDense := rfl
@[simp] theorem State.advance_bpSparse (i : Instr) : (s.advance i).bpSparse = s.bpSparse := rfl
@[simp] theorem State.advance_nmiLatch (i : Instr) : (s.advance i).nmiLatch = s.nmiLatch := rfl
@[simp] theorem State.advance_waiting (i : Instr) : (s.advance i).waiting = s.waiting := rfl
@[simp] theorem State.advance_stopped (i : Instr) : (s.advance i).stopped = s.stopped := rfl
@[simp] theorem State.advance_pendingHalt (i : Instr) : (s.advance i).pendingHalt = s.pendingHalt := rfl
@[simp] theorem State.advance_skipPcBp (i : Instr) : (s.advance i).skipPcBp = s.skipPcBp := rfl
@[simp] theorem State.advance_tickCycles (i : Instr) : (s.advance i).tickCycles = s.tickCycles := rfl
@[simp] theorem State.advance_fault (i : Instr) : (s.advance i).fault = s.fault := rfl
@[simp] theorem State.advance_ctrl (i : Instr) : (s.advance i).ctrl = s.ctrl := rfl
@[simp] theorem State.advance_speed (i : Instr) : (s.advance i).speed = s.speed := rfl
@[simp] theorem State.advance_channel (i : Instr) : (s.advance i).channel = s.channel := rfl
@[simp] theorem State.advance_cfg (i : Instr) : (s.advance i).cfg = s.cfg := rfl
@[simp] theorem State.advance_inTick (i : Instr) : (s.advance i).inTick = s.inTick := rfl
@[simp] theorem State.advance_budget (i : Instr) : (s.advance i).budget = s.budget := rfl
@[simp] theorem State.advance_tickLength (i : Instr) : (s.advance i).tickLength = s.tickLength := rfl
@[simp] theorem State.advance_pauseReq (i : Instr) : (s.advance i).pauseReq = s.pauseReq := rfl
@[simp] theorem State.advance_pins (i : Instr) : (s.advance i).pins = s.pins := rfl
@[simp] theorem State.advance_commands (i : Instr) : (s.advance i).commands = s.commands := rfl
@[simp] theorem State.advance_events (i : Instr) : (s.advance i).events = s.events := rfl

@[simp] theorem State.wake_a : (s.wake).a = s.a := rfl
@[simp] theorem State.wake_x : (s.wake).x = s.x := rfl
@[simp] theorem State.wake_y : (s.wake).y = s.y := rfl
@[simp] theorem State.wake_sp : (s.wake).sp = s.sp := rfl
@[simp] theorem State.wake_pc : (s.wake).pc = s.pc := rfl
@[simp] theorem State.wake_p : (s.wake).p = s.p := rfl
@[simp] theorem State.wake_sw : (s.wake).sw = s.sw := rfl
@[simp] theorem State.wake_mem : (s.wake).mem = s.mem := rfl
@[simp] theorem State.wake_bpDense : (s.wake).bpDense = s.bpDense := rfl
@[simp] theorem State.wake_bpSparse : (s.wake).bpSparse = s.bpSparse := rfl
@[simp] theorem State.wake_nmiLatch : (s.wake).nmiLatch = s.nmiLatch := rfl
@[simp] theorem State.wake_waiting : (s.wake).waiting = false := rfl
@[simp] theorem State.wake_stopped : (s.wake).stopped = s.stopped := rfl
@[simp] theorem State.wake_pendingHalt : (s.wake).pendingHalt = s.pendingHalt := rfl
@[simp] theorem State.wake_skipPcBp : (s.wake).skipPcBp = s.skipPcBp := rfl
@[simp] theorem State.wake_tickCycles : (s.wake).tickCycles = s.tickCycles := rfl
@[simp] theorem State.wake_fault : (s.wake).fault = s.fault := rfl
@[simp] theorem State.wake_ctrl : (s.wake).ctrl = s.ctrl := rfl
@[simp] theorem State.wake_speed : (s.wake).speed = s.speed := rfl
@[simp] theorem State.wake_channel : (s.wake).channel = s.channel := rfl
@[simp] theorem State.wake_cfg : (s.wake).cfg = s.cfg := rfl
@[simp] theorem State.wake_inTick : (s.wake).inTick = s.inTick := rfl
@[simp] theorem State.wake_budget : (s.wake).budget = s.budget := rfl
@[simp] theorem State.wake_tickLength : (s.wake).tickLength = s.tickLength := rfl
@[simp] theorem State.wake_pauseReq : (s.wake).pauseReq = s.pauseReq := rfl
@[simp] theorem State.wake_pins : (s.wake).pins = s.pins := rfl
@[simp] theorem State.wake_commands : (s.wake).commands = s.commands := rfl
@[simp] theorem State.wake_events : (s.wake).events = s.events := rfl

@[simp] theorem State.openBoundary_a : (s.openBoundary).a = s.a := rfl
@[simp] theorem State.openBoundary_x : (s.openBoundary).x = s.x := rfl
@[simp] theorem State.openBoundary_y : (s.openBoundary).y = s.y := rfl
@[simp] theorem State.openBoundary_sp : (s.openBoundary).sp = s.sp := rfl
@[simp] theorem State.openBoundary_pc : (s.openBoundary).pc = s.pc := rfl
@[simp] theorem State.openBoundary_p : (s.openBoundary).p = s.p := rfl
@[simp] theorem State.openBoundary_sw : (s.openBoundary).sw = s.sw := rfl
@[simp] theorem State.openBoundary_mem : (s.openBoundary).mem = s.mem := rfl
@[simp] theorem State.openBoundary_bpDense : (s.openBoundary).bpDense = s.bpDense := rfl
@[simp] theorem State.openBoundary_bpSparse : (s.openBoundary).bpSparse = s.bpSparse := rfl
@[simp] theorem State.openBoundary_nmiLatch : (s.openBoundary).nmiLatch = s.nmiLatch := rfl
@[simp] theorem State.openBoundary_waiting : (s.openBoundary).waiting = s.waiting := rfl
@[simp] theorem State.openBoundary_stopped : (s.openBoundary).stopped = s.stopped := rfl
@[simp] theorem State.openBoundary_pendingHalt : (s.openBoundary).pendingHalt = s.pendingHalt := rfl
@[simp] theorem State.openBoundary_skipPcBp : (s.openBoundary).skipPcBp = s.skipPcBp := rfl
@[simp] theorem State.openBoundary_tickCycles : (s.openBoundary).tickCycles = s.tickCycles := rfl
@[simp] theorem State.openBoundary_fault : (s.openBoundary).fault = s.fault := rfl
@[simp] theorem State.openBoundary_ctrl : (s.openBoundary).ctrl = s.ctrl := rfl
@[simp] theorem State.openBoundary_speed : (s.openBoundary).speed = s.speed := rfl
@[simp] theorem State.openBoundary_channel : (s.openBoundary).channel = s.publish.channel := rfl
@[simp] theorem State.openBoundary_cfg : (s.openBoundary).cfg = s.cfg := rfl
@[simp] theorem State.openBoundary_inTick : (s.openBoundary).inTick = s.inTick := rfl
@[simp] theorem State.openBoundary_budget : (s.openBoundary).budget = s.budget := rfl
@[simp] theorem State.openBoundary_tickLength : (s.openBoundary).tickLength = s.tickLength := rfl
@[simp] theorem State.openBoundary_pauseReq : (s.openBoundary).pauseReq = false := rfl
@[simp] theorem State.openBoundary_pins : (s.openBoundary).pins = s.pins := rfl
@[simp] theorem State.openBoundary_commands : (s.openBoundary).commands = s.commands := rfl
@[simp] theorem State.openBoundary_events : (s.openBoundary).events = s.events := rfl

@[simp] theorem State.samplePins_a : (s.samplePins).a = s.a := rfl
@[simp] theorem State.samplePins_x : (s.samplePins).x = s.x := rfl
@[simp] theorem State.samplePins_y : (s.samplePins).y = s.y := rfl
@[simp] theorem State.samplePins_sp : (s.samplePins).sp = s.sp := rfl
@[simp] theorem State.samplePins_pc : (s.samplePins).pc = s.pc := rfl
@[simp] theorem State.samplePins_p : (s.samplePins).p = s.p := rfl
@[simp] theorem State.samplePins_sw : (s.samplePins).sw = s.sw := rfl
@[simp] theorem State.samplePins_mem : (s.samplePins).mem = s.mem := rfl
@[simp] theorem State.samplePins_bpDense : (s.samplePins).bpDense = s.bpDense := rfl
@[simp] theorem State.samplePins_bpSparse : (s.samplePins).bpSparse = s.bpSparse := rfl
@[simp] theorem State.samplePins_nmiLatch : (s.samplePins).nmiLatch = (s.nmiLatch || s.pinsNow.nmiEdge) := rfl
@[simp] theorem State.samplePins_waiting : (s.samplePins).waiting = s.waiting := rfl
@[simp] theorem State.samplePins_stopped : (s.samplePins).stopped = s.stopped := rfl
@[simp] theorem State.samplePins_pendingHalt : (s.samplePins).pendingHalt = s.pendingHalt := rfl
@[simp] theorem State.samplePins_skipPcBp : (s.samplePins).skipPcBp = s.skipPcBp := rfl
@[simp] theorem State.samplePins_tickCycles : (s.samplePins).tickCycles = s.tickCycles := rfl
@[simp] theorem State.samplePins_fault : (s.samplePins).fault = s.fault := rfl
@[simp] theorem State.samplePins_ctrl : (s.samplePins).ctrl = s.ctrl := rfl
@[simp] theorem State.samplePins_speed : (s.samplePins).speed = s.speed := rfl
@[simp] theorem State.samplePins_channel : (s.samplePins).channel = s.channel := rfl
@[simp] theorem State.samplePins_cfg : (s.samplePins).cfg = s.cfg := rfl
@[simp] theorem State.samplePins_inTick : (s.samplePins).inTick = s.inTick := rfl
@[simp] theorem State.samplePins_budget : (s.samplePins).budget = s.budget := rfl
@[simp] theorem State.samplePins_tickLength : (s.samplePins).tickLength = s.tickLength := rfl
@[simp] theorem State.samplePins_pauseReq : (s.samplePins).pauseReq = s.pauseReq := rfl
@[simp] theorem State.samplePins_pins : (s.samplePins).pins = s.pins.tail := rfl
@[simp] theorem State.samplePins_commands : (s.samplePins).commands = s.commands := rfl
@[simp] theorem State.samplePins_events : (s.samplePins).events = s.events := rfl

@[simp] theorem State.haltOutOfRange_a (w : Addr) (n : Nat) : (s.haltOutOfRange w n).a = s.a := rfl
@[simp] theorem State.haltOutOfRange_x (w : Addr) (n : Nat) : (s.haltOutOfRange w n).x = s.x := rfl
@[simp] theorem State.haltOutOfRange_y (w : Addr) (n : Nat) : (s.haltOutOfRange w n).y = s.y := rfl
@[simp] theorem State.haltOutOfRange_sp (w : Addr) (n : Nat) : (s.haltOutOfRange w n).sp = s.sp := rfl
@[simp] theorem State.haltOutOfRange_pc (w : Addr) (n : Nat) : (s.haltOutOfRange w n).pc = s.pc := rfl
@[simp] theorem State.haltOutOfRange_p (w : Addr) (n : Nat) : (s.haltOutOfRange w n).p = s.p := rfl
@[simp] theorem State.haltOutOfRange_sw (w : Addr) (n : Nat) : (s.haltOutOfRange w n).sw = s.sw := rfl
@[simp] theorem State.haltOutOfRange_mem (w : Addr) (n : Nat) : (s.haltOutOfRange w n).mem = s.mem := rfl
@[simp] theorem State.haltOutOfRange_bpDense (w : Addr) (n : Nat) : (s.haltOutOfRange w n).bpDense = s.bpDense := rfl
@[simp] theorem State.haltOutOfRange_bpSparse (w : Addr) (n : Nat) : (s.haltOutOfRange w n).bpSparse = s.bpSparse := rfl
@[simp] theorem State.haltOutOfRange_nmiLatch (w : Addr) (n : Nat) : (s.haltOutOfRange w n).nmiLatch = s.nmiLatch := rfl
@[simp] theorem State.haltOutOfRange_waiting (w : Addr) (n : Nat) : (s.haltOutOfRange w n).waiting = s.waiting := rfl
@[simp] theorem State.haltOutOfRange_stopped (w : Addr) (n : Nat) : (s.haltOutOfRange w n).stopped = s.stopped := rfl
@[simp] theorem State.haltOutOfRange_pendingHalt (w : Addr) (n : Nat) : (s.haltOutOfRange w n).pendingHalt = s.pendingHalt := rfl
@[simp] theorem State.haltOutOfRange_skipPcBp (w : Addr) (n : Nat) : (s.haltOutOfRange w n).skipPcBp = s.skipPcBp := rfl
@[simp] theorem State.haltOutOfRange_tickCycles (w : Addr) (n : Nat) : (s.haltOutOfRange w n).tickCycles = s.tickCycles := rfl
@[simp] theorem State.haltOutOfRange_fault (w : Addr) (n : Nat) : (s.haltOutOfRange w n).fault = some (.outOfRange n) := rfl
@[simp] theorem State.haltOutOfRange_ctrl (w : Addr) (n : Nat) : (s.haltOutOfRange w n).ctrl = .halted .outOfRange := rfl
@[simp] theorem State.haltOutOfRange_speed (w : Addr) (n : Nat) : (s.haltOutOfRange w n).speed = s.speed := rfl
@[simp] theorem State.haltOutOfRange_channel (w : Addr) (n : Nat) : (s.haltOutOfRange w n).channel = s.channel := rfl
@[simp] theorem State.haltOutOfRange_cfg (w : Addr) (n : Nat) : (s.haltOutOfRange w n).cfg = s.cfg := rfl
@[simp] theorem State.haltOutOfRange_inTick (w : Addr) (n : Nat) : (s.haltOutOfRange w n).inTick = false := rfl
@[simp] theorem State.haltOutOfRange_budget (w : Addr) (n : Nat) : (s.haltOutOfRange w n).budget = s.budget := rfl
@[simp] theorem State.haltOutOfRange_tickLength (w : Addr) (n : Nat) : (s.haltOutOfRange w n).tickLength = s.tickLength := rfl
@[simp] theorem State.haltOutOfRange_pauseReq (w : Addr) (n : Nat) : (s.haltOutOfRange w n).pauseReq = s.pauseReq := rfl
@[simp] theorem State.haltOutOfRange_pins (w : Addr) (n : Nat) : (s.haltOutOfRange w n).pins = s.pins := rfl
@[simp] theorem State.haltOutOfRange_commands (w : Addr) (n : Nat) : (s.haltOutOfRange w n).commands = s.commands := rfl
@[simp] theorem State.haltOutOfRange_events (w : Addr) (n : Nat) : (s.haltOutOfRange w n).events = s.events ++ [.halted (.halt .outOfRange) w] := rfl

@[simp] theorem State.clearRun_a : (s.clearRun).a = s.a := rfl
@[simp] theorem State.clearRun_x : (s.clearRun).x = s.x := rfl
@[simp] theorem State.clearRun_y : (s.clearRun).y = s.y := rfl
@[simp] theorem State.clearRun_sp : (s.clearRun).sp = s.sp := rfl
@[simp] theorem State.clearRun_pc : (s.clearRun).pc = s.pc := rfl
@[simp] theorem State.clearRun_p : (s.clearRun).p = s.p := rfl
@[simp] theorem State.clearRun_sw : (s.clearRun).sw = s.sw := rfl
@[simp] theorem State.clearRun_mem : (s.clearRun).mem = s.mem := rfl
@[simp] theorem State.clearRun_bpDense : (s.clearRun).bpDense = s.bpDense := rfl
@[simp] theorem State.clearRun_bpSparse : (s.clearRun).bpSparse = s.bpSparse := rfl
@[simp] theorem State.clearRun_nmiLatch : (s.clearRun).nmiLatch = false := rfl
@[simp] theorem State.clearRun_waiting : (s.clearRun).waiting = false := rfl
@[simp] theorem State.clearRun_stopped : (s.clearRun).stopped = false := rfl
@[simp] theorem State.clearRun_pendingHalt : (s.clearRun).pendingHalt = none := rfl
@[simp] theorem State.clearRun_skipPcBp : (s.clearRun).skipPcBp = false := rfl
@[simp] theorem State.clearRun_tickCycles : (s.clearRun).tickCycles = 0 := rfl
@[simp] theorem State.clearRun_fault : (s.clearRun).fault = none := rfl
@[simp] theorem State.clearRun_ctrl : (s.clearRun).ctrl = s.ctrl := rfl
@[simp] theorem State.clearRun_speed : (s.clearRun).speed = s.speed := rfl
@[simp] theorem State.clearRun_channel : (s.clearRun).channel = s.channel := rfl
@[simp] theorem State.clearRun_cfg : (s.clearRun).cfg = s.cfg := rfl
@[simp] theorem State.clearRun_inTick : (s.clearRun).inTick = false := rfl
@[simp] theorem State.clearRun_budget : (s.clearRun).budget = s.budget := rfl
@[simp] theorem State.clearRun_tickLength : (s.clearRun).tickLength = s.tickLength := rfl
@[simp] theorem State.clearRun_pauseReq : (s.clearRun).pauseReq = false := rfl
@[simp] theorem State.clearRun_pins : (s.clearRun).pins = s.pins := rfl
@[simp] theorem State.clearRun_commands : (s.clearRun).commands = s.commands := rfl
@[simp] theorem State.clearRun_events : (s.clearRun).events = s.events := rfl

@[simp] theorem State.loadDefaults_a : (s.loadDefaults).a = s.cfg.resetRegs.a := rfl
@[simp] theorem State.loadDefaults_x : (s.loadDefaults).x = s.cfg.resetRegs.x := rfl
@[simp] theorem State.loadDefaults_y : (s.loadDefaults).y = s.cfg.resetRegs.y := rfl
@[simp] theorem State.loadDefaults_sp : (s.loadDefaults).sp = s.cfg.resetRegs.sp := rfl
@[simp] theorem State.loadDefaults_pc : (s.loadDefaults).pc = s.pc := rfl
@[simp] theorem State.loadDefaults_p : (s.loadDefaults).p = s.cfg.resetRegs.p := rfl
@[simp] theorem State.loadDefaults_sw : (s.loadDefaults).sw = s.cfg.switchDefault := rfl
@[simp] theorem State.loadDefaults_mem : (s.loadDefaults).mem = s.mem := rfl
@[simp] theorem State.loadDefaults_bpDense : (s.loadDefaults).bpDense = s.bpDense := rfl
@[simp] theorem State.loadDefaults_bpSparse : (s.loadDefaults).bpSparse = s.bpSparse := rfl
@[simp] theorem State.loadDefaults_nmiLatch : (s.loadDefaults).nmiLatch = s.nmiLatch := rfl
@[simp] theorem State.loadDefaults_waiting : (s.loadDefaults).waiting = s.waiting := rfl
@[simp] theorem State.loadDefaults_stopped : (s.loadDefaults).stopped = s.stopped := rfl
@[simp] theorem State.loadDefaults_pendingHalt : (s.loadDefaults).pendingHalt = s.pendingHalt := rfl
@[simp] theorem State.loadDefaults_skipPcBp : (s.loadDefaults).skipPcBp = s.skipPcBp := rfl
@[simp] theorem State.loadDefaults_tickCycles : (s.loadDefaults).tickCycles = s.tickCycles := rfl
@[simp] theorem State.loadDefaults_fault : (s.loadDefaults).fault = s.fault := rfl
@[simp] theorem State.loadDefaults_ctrl : (s.loadDefaults).ctrl = s.ctrl := rfl
@[simp] theorem State.loadDefaults_speed : (s.loadDefaults).speed = s.speed := rfl
@[simp] theorem State.loadDefaults_channel : (s.loadDefaults).channel = s.channel := rfl
@[simp] theorem State.loadDefaults_cfg : (s.loadDefaults).cfg = s.cfg := rfl
@[simp] theorem State.loadDefaults_inTick : (s.loadDefaults).inTick = s.inTick := rfl
@[simp] theorem State.loadDefaults_budget : (s.loadDefaults).budget = s.budget := rfl
@[simp] theorem State.loadDefaults_tickLength : (s.loadDefaults).tickLength = s.tickLength := rfl
@[simp] theorem State.loadDefaults_pauseReq : (s.loadDefaults).pauseReq = s.pauseReq := rfl
@[simp] theorem State.loadDefaults_pins : (s.loadDefaults).pins = s.pins := rfl
@[simp] theorem State.loadDefaults_commands : (s.loadDefaults).commands = s.commands := rfl
@[simp] theorem State.loadDefaults_events : (s.loadDefaults).events = s.events := rfl

@[simp] theorem State.setFlags_a (n : Nat) (v : Byte) : (s.setFlags n v).a = s.a := rfl
@[simp] theorem State.setFlags_x (n : Nat) (v : Byte) : (s.setFlags n v).x = s.x := rfl
@[simp] theorem State.setFlags_y (n : Nat) (v : Byte) : (s.setFlags n v).y = s.y := rfl
@[simp] theorem State.setFlags_sp (n : Nat) (v : Byte) : (s.setFlags n v).sp = s.sp := rfl
@[simp] theorem State.setFlags_pc (n : Nat) (v : Byte) : (s.setFlags n v).pc = s.pc := rfl
@[simp] theorem State.setFlags_p (n : Nat) (v : Byte) : (s.setFlags n v).p = s.p := rfl
@[simp] theorem State.setFlags_sw (n : Nat) (v : Byte) : (s.setFlags n v).sw = s.sw := rfl
@[simp] theorem State.setFlags_mem (n : Nat) (v : Byte) : (s.setFlags n v).mem = s.mem := rfl
@[simp] theorem State.setFlags_bpDense (n : Nat) (v : Byte) : (s.setFlags n v).bpDense = refreshDense s.cfg (Memory.write 0 s.bpSparse n v) (logical s.cfg n) s.bpDense := rfl
@[simp] theorem State.setFlags_bpSparse (n : Nat) (v : Byte) : (s.setFlags n v).bpSparse = Memory.write 0 s.bpSparse n v := rfl
@[simp] theorem State.setFlags_nmiLatch (n : Nat) (v : Byte) : (s.setFlags n v).nmiLatch = s.nmiLatch := rfl
@[simp] theorem State.setFlags_waiting (n : Nat) (v : Byte) : (s.setFlags n v).waiting = s.waiting := rfl
@[simp] theorem State.setFlags_stopped (n : Nat) (v : Byte) : (s.setFlags n v).stopped = s.stopped := rfl
@[simp] theorem State.setFlags_pendingHalt (n : Nat) (v : Byte) : (s.setFlags n v).pendingHalt = s.pendingHalt := rfl
@[simp] theorem State.setFlags_skipPcBp (n : Nat) (v : Byte) : (s.setFlags n v).skipPcBp = s.skipPcBp := rfl
@[simp] theorem State.setFlags_tickCycles (n : Nat) (v : Byte) : (s.setFlags n v).tickCycles = s.tickCycles := rfl
@[simp] theorem State.setFlags_fault (n : Nat) (v : Byte) : (s.setFlags n v).fault = s.fault := rfl
@[simp] theorem State.setFlags_ctrl (n : Nat) (v : Byte) : (s.setFlags n v).ctrl = s.ctrl := rfl
@[simp] theorem State.setFlags_speed (n : Nat) (v : Byte) : (s.setFlags n v).speed = s.speed := rfl
@[simp] theorem State.setFlags_channel (n : Nat) (v : Byte) : (s.setFlags n v).channel = s.channel := rfl
@[simp] theorem State.setFlags_cfg (n : Nat) (v : Byte) : (s.setFlags n v).cfg = s.cfg := rfl
@[simp] theorem State.setFlags_inTick (n : Nat) (v : Byte) : (s.setFlags n v).inTick = s.inTick := rfl
@[simp] theorem State.setFlags_budget (n : Nat) (v : Byte) : (s.setFlags n v).budget = s.budget := rfl
@[simp] theorem State.setFlags_tickLength (n : Nat) (v : Byte) : (s.setFlags n v).tickLength = s.tickLength := rfl
@[simp] theorem State.setFlags_pauseReq (n : Nat) (v : Byte) : (s.setFlags n v).pauseReq = s.pauseReq := rfl
@[simp] theorem State.setFlags_pins (n : Nat) (v : Byte) : (s.setFlags n v).pins = s.pins := rfl
@[simp] theorem State.setFlags_commands (n : Nat) (v : Byte) : (s.setFlags n v).commands = s.commands := rfl
@[simp] theorem State.setFlags_events (n : Nat) (v : Byte) : (s.setFlags n v).events = s.events := rfl

/-- A register reads as the byte last written to it. -/
@[simp] theorem State.setReg_reg (r : Reg) (v : Byte) : (s.setReg r v).reg r = v := by cases r <;> rfl

/-- Writing one register leaves the others. -/
theorem State.setReg_reg_ne {r q : Reg} (v : Byte) (h : q ≠ r) : (s.setReg r v).reg q = s.reg q := by
  cases r <;> cases q <;> first | rfl | exact absurd rfl h

@[simp] theorem State.setRegNZ_reg (r : Reg) (v : Byte) : (s.setRegNZ r v).reg r = v := by cases r <;> rfl

theorem State.setRegNZ_reg_ne {r q : Reg} (v : Byte) (h : q ≠ r) : (s.setRegNZ r v).reg q = s.reg q := by
  cases r <;> cases q <;> first | rfl | exact absurd rfl h

end Sys2Proof.Machine
end

