-- ==== Sys2Proof/Laws/Access.lean ====
section
/-! SUPPORT. What each shared access operation can do, said once: when it completes, the value it gives, and the fields
of the state it changes. -/

namespace Sys2Proof.Machine

open Sys2Proof

@[simp] theorem Access.bind_done {α β : Type} (v : α) (s : State) (f : α → State → Access β) :
    (Access.done v s).bind f = f v s := rfl

@[simp] theorem Access.bind_outOfRange {α β : Type} (p : Nat) (s : State) (f : α → State → Access β) :
    (Access.outOfRange p s).bind f = .outOfRange p s := rfl

/-- A bound sequence completes when both parts do. -/
theorem Access.bind_eq_done {α β : Type} {x : Access α} {f : α → State → Access β} {w : β} {t : State} :
    x.bind f = .done w t ↔ ∃ v u, x = .done v u ∧ f v u = .done w t := by
  cases x <;> simp [Access.bind]

/-- A bound sequence is out of range where its first part is, or else where its second part is. -/
theorem Access.bind_eq_outOfRange {α β : Type} {x : Access α} {f : α → State → Access β} {p : Nat} {t : State} :
    x.bind f = .outOfRange p t ↔
      x = .outOfRange p t ∨ ∃ v u, x = .done v u ∧ f v u = .outOfRange p t := by
  cases x <;> simp [Access.bind]

/-- The address and the switches are all that resolution depends on. -/
theorem State.phys_eq (s : State) (k : AccessKind) (a : Addr) : s.phys k a = physAddr s.cfg s.sw k a := rfl

/-- What a breakpoint evaluation leaves in `pending_halt`. -/
theorem noteAccess_eq (k : AccessKind) (a : Addr) (s : State) :
    noteAccess k a s = { s with pendingHalt := (noteAccess k a s).pendingHalt } := by
  unfold noteAccess
  split <;> rfl

@[simp] theorem noteAccess_sw (k : AccessKind) (a : Addr) (s : State) : (noteAccess k a s).sw = s.sw := by
  rw [noteAccess_eq]

@[simp] theorem noteAccess_cfg (k : AccessKind) (a : Addr) (s : State) : (noteAccess k a s).cfg = s.cfg := by
  rw [noteAccess_eq]

@[simp] theorem noteAccess_mem (k : AccessKind) (a : Addr) (s : State) : (noteAccess k a s).mem = s.mem := by
  rw [noteAccess_eq]

/-- A pending halt is never replaced by a later breakpoint (R476). -/
theorem noteAccess_pendingHalt_of_isSome {k : AccessKind} {a : Addr} {s : State} (h : s.pendingHalt.isSome) :
    noteAccess k a s = s := by
  unfold noteAccess
  split
  · rename_i hc
    simp [Option.isNone_iff_eq_none] at hc
    simp [hc.2] at h
  · rfl

/-- What a data read does (R84, R476): it completes where its address is in range, gives the byte there, and changes
the switches and `pending_halt` alone. -/
theorem memRead_eq (a : Addr) (s : State) :
    memRead a s =
      if s.phys .read a < s.cfg.memSize then
        .done (s.byteAt a)
          { s with
            sw := switchDecode s.cfg s.sw .read a (s.byteAt a)
            pendingHalt := (noteAccess .read a s).pendingHalt }
      else .outOfRange (s.phys .read a) { s with pendingHalt := (noteAccess .read a s).pendingHalt } := by
  unfold memRead busRead
  rw [noteAccess_eq]
  rfl

/-- What a data write does (R85, R476): it completes where its address is in range, stores the byte there, and changes
memory, the switches and `pending_halt` alone. -/
theorem memWrite_eq (a : Addr) (v : Byte) (s : State) :
    memWrite a v s =
      if s.phys .write a < s.cfg.memSize then
        .done ()
          { s with
            mem := Memory.write s.cfg.initFill s.mem (s.phys .write a) v
            sw := switchDecode s.cfg s.sw .write a v
            pendingHalt := (noteAccess .write a s).pendingHalt }
      else .outOfRange (s.phys .write a) { s with pendingHalt := (noteAccess .write a s).pendingHalt } := by
  unfold memWrite busWrite
  rw [noteAccess_eq]
  rfl

/-- The states data reads lead to: the switches and `pending_halt` may differ. -/
def ReadsOnly (s t : State) : Prop := t = { s with sw := t.sw, pendingHalt := t.pendingHalt }

theorem ReadsOnly.refl (s : State) : ReadsOnly s s := rfl

theorem ReadsOnly.trans {s t u : State} (h : ReadsOnly s t) (h' : ReadsOnly t u) : ReadsOnly s u := by
  unfold ReadsOnly at *
  rw [h'] at *
  rw [h]

theorem ReadsOnly.cfg {s t : State} (h : ReadsOnly s t) : t.cfg = s.cfg := by rw [h]
theorem ReadsOnly.mem {s t : State} (h : ReadsOnly s t) : t.mem = s.mem := by rw [h]
theorem ReadsOnly.memByte {s t : State} (h : ReadsOnly s t) (p : Nat) : t.memByte p = s.memByte p := by
  rw [h]; rfl

theorem memRead_readsOnly {a : Addr} {s t : State} {v : Byte} (h : memRead a s = .done v t) : ReadsOnly s t := by
  rw [memRead_eq] at h
  split at h <;> cases h
  rfl

/-- A read that completes gives the byte at its address. -/
theorem memRead_value {a : Addr} {s t : State} {v : Byte} (h : memRead a s = .done v t) : v = s.byteAt a := by
  rw [memRead_eq] at h
  split at h <;> cases h
  rfl

/-- Where `BANK_MAP` keeps every address in range, a data read completes. -/
theorem memRead_completes {s : State} (h : s.cfg.mapsInRange) (a : Addr) :
    ∃ t, memRead a s = .done (s.byteAt a) t ∧ ReadsOnly s t := by
  rw [memRead_eq, if_pos (show s.phys .read a < _ from h _ _ _)]
  exact ⟨_, rfl, rfl⟩

/-- Where `BANK_MAP` keeps every address in range, a data write completes. -/
theorem memWrite_completes {s : State} (h : s.cfg.mapsInRange) (a : Addr) (v : Byte) :
    ∃ t, memWrite a v s = .done () t ∧ t.cfg = s.cfg := by
  rw [memWrite_eq, if_pos (show s.phys .write a < _ from h _ _ _)]
  exact ⟨_, rfl, rfl⟩

/-- The states data accesses lead to: memory, the switches and `pending_halt` may differ, memory stays canonical and
inside the physical space. -/
structure Accesses (s t : State) : Prop where
  same : t = { s with mem := t.mem, sw := t.sw, pendingHalt := t.pendingHalt }
  wf : Memory.wf s.cfg.initFill s.mem → Memory.wf s.cfg.initFill t.mem
  bound : (∀ c ∈ s.mem, c.1 < s.cfg.memSize) → ∀ c ∈ t.mem, c.1 < s.cfg.memSize

theorem Accesses.refl (s : State) : Accesses s s := ⟨rfl, id, id⟩

theorem Accesses.cfg {s t : State} (h : Accesses s t) : t.cfg = s.cfg := by rw [h.same]

theorem Accesses.trans {s t u : State} (h : Accesses s t) (h' : Accesses t u) : Accesses s u := by
  have hc := h.cfg
  refine ⟨?_, fun hw => ?_, fun hb => ?_⟩
  · have h1 := h'.same
    rw [h1, h.same]
  · have := h'.wf
    rw [hc] at this
    exact this (h.wf hw)
  · have := h'.bound
    rw [hc] at this
    exact this (h.bound hb)

theorem ReadsOnly.accesses {s t : State} (h : ReadsOnly s t) : Accesses s t := by
  have hm := h.mem
  refine ⟨?_, fun hw => ?_, fun hb => ?_⟩
  · rw [h]
  · rw [hm]; exact hw
  · rw [hm]; exact hb

theorem memWrite_accesses {a : Addr} {v : Byte} {s t : State} {x : Unit} (h : memWrite a v s = .done x t) :
    Accesses s t := by
  rw [memWrite_eq] at h
  split at h <;> cases h
  rename_i hp
  refine ⟨rfl, fun hw => Memory.write_wf hw _ _, fun hb c hc => ?_⟩
  rcases Memory.mem_write hc with hc | rfl
  · exact hb c hc
  · exact hp

/-- A write changes no byte of physical memory but the one its address resolves to. -/
theorem memWrite_memByte {a : Addr} {v : Byte} {s t : State} {x : Unit} (h : memWrite a v s = .done x t)
    (hw : Memory.wf s.cfg.initFill s.mem) (p : Nat) :
    t.memByte p = if p = s.phys .write a then v else s.memByte p := by
  rw [memWrite_eq] at h
  split at h <;> cases h
  exact Memory.read_write hw.1 _ _ _

/-- Two data reads give the bytes at their addresses, the second with the switches the first left. -/
theorem readPair_done {l h : Addr} {s t : State} {w : Addr} (hd : readPair l h s = .done w t) :
    ReadsOnly s t ∧ ∃ u, memRead l s = .done (s.byteAt l) u ∧ memRead h u = .done (u.byteAt h) t ∧
      w = word16 (u.byteAt h) (s.byteAt l) := by
  unfold readPair at hd
  obtain ⟨b, u, h1, hd⟩ := Access.bind_eq_done.1 hd
  obtain ⟨c, v, h2, hd⟩ := Access.bind_eq_done.1 hd
  cases hd
  have e1 := memRead_value h1
  have e2 := memRead_value h2
  subst e1 e2
  exact ⟨(memRead_readsOnly h1).trans (memRead_readsOnly h2), u, h1, h2, rfl⟩

/-- Where every address is in range, two data reads complete. -/
theorem readPair_completes {s : State} (h : s.cfg.mapsInRange) (l g : Addr) :
    ∃ w t, readPair l g s = .done w t ∧ ReadsOnly s t := by
  obtain ⟨u, h1, r1⟩ := memRead_completes h l
  obtain ⟨t, h2, r2⟩ := memRead_completes (s := u) (r1.cfg ▸ h) g
  exact ⟨word16 (u.byteAt g) (s.byteAt l), t, by simp only [readPair, h1, h2, Access.bind_done], r1.trans r2⟩

/-- What a push can do: the byte is written at the stack address, then S is one less (R15, R260). -/
theorem push_done {v : Byte} {s t : State} {x : Unit} (h : push v s = .done x t) :
    ∃ u, memWrite (stackAddr s.sp) v s = .done () u ∧ t = { u with sp := s.sp - 1 } := by
  unfold push at h
  obtain ⟨y, u, h1, h⟩ := Access.bind_eq_done.1 h
  cases h
  exact ⟨u, h1, by rw [(memWrite_accesses h1).same]⟩

/-- Where every address is in range, a push completes. -/
theorem push_completes {s : State} (h : s.cfg.mapsInRange) (v : Byte) :
    ∃ t, push v s = .done () t ∧ t.cfg = s.cfg := by
  obtain ⟨u, h1, h2⟩ := memWrite_completes h (stackAddr s.sp) v
  exact ⟨{ u with sp := u.sp - 1 }, by simp only [push, h1, Access.bind_done], h2⟩

/-- What a pull can do: S is one more, then the byte at the stack address is read (R15, R260). -/
theorem pull_done {v : Byte} {s t : State} (h : pull s = .done v t) :
    v = ({ s with sp := s.sp + 1 } : State).byteAt (stackAddr (s.sp + 1)) ∧ ReadsOnly { s with sp := s.sp + 1 } t :=
  ⟨memRead_value h, memRead_readsOnly h⟩

/-- Where every address is in range, a pull completes. -/
theorem pull_completes {s : State} (h : s.cfg.mapsInRange) :
    ∃ v t, pull s = .done v t ∧ ReadsOnly { s with sp := s.sp + 1 } t := by
  obtain ⟨t, h1, r1⟩ := memRead_completes (s := { s with sp := s.sp + 1 }) h (stackAddr (s.sp + 1))
  exact ⟨_, t, h1, r1⟩

/-- With no row in `SWITCH_DECODE`, no access changes a switch (R87). -/
theorem switchDecode_none {cfg : Config} (h : cfg.switchDecode = []) (sw : SwitchState) (k : AccessKind) (a : Addr)
    (v : Byte) : switchDecode cfg sw k a v = sw := by
  unfold switchDecode
  rw [h]
  rfl

/-- A data read on a machine without soft switches changes a breakpoint's flag alone. -/
theorem memRead_noSwitch {s : State} (hm : s.cfg.mapsInRange) (hs : s.cfg.switchDecode = []) (a : Addr) :
    memRead a s = .done (s.byteAt a) { s with pendingHalt := (noteAccess .read a s).pendingHalt } := by
  rw [memRead_eq, if_pos (show s.phys .read a < _ from hm _ _ _), switchDecode_none hs]

/-- A data write on a machine without soft switches changes memory and a breakpoint's flag alone. -/
theorem memWrite_noSwitch {s : State} (hm : s.cfg.mapsInRange) (hs : s.cfg.switchDecode = []) (a : Addr) (v : Byte) :
    memWrite a v s =
      .done ()
        { s with
          mem := Memory.write s.cfg.initFill s.mem (s.phys .write a) v
          pendingHalt := (noteAccess .write a s).pendingHalt } := by
  rw [memWrite_eq, if_pos (show s.phys .write a < _ from hm _ _ _), switchDecode_none hs]

/-- A machine with one bank, no offset and room for the logical space resolves every address to itself. -/
theorem plain_phys {cfg : Config} (h : cfg.plain) (sw : SwitchState) (k : AccessKind) (a : Addr) :
    physAddr cfg sw k a = a.toNat := by
  unfold physAddr bankOffset
  rw [h.1, h.2.1]
  rfl

/-- Such a machine keeps every address in range. -/
theorem plain_mapsInRange {cfg : Config} (h : cfg.plain) : cfg.mapsInRange := fun sw k a => by
  rw [plain_phys h]
  have := a.isLt
  have := h.2.2.2
  omega

/-- The standard configuration is such a machine. -/
theorem standard_plain : Config.standard.plain := ⟨rfl, rfl, rfl, Nat.le_refl _⟩

/-- The standard configuration keeps every address in range. -/
theorem standard_mapsInRange : Config.standard.mapsInRange := plain_mapsInRange standard_plain

end Sys2Proof.Machine
end

