-- ==== Sys2Proof/Laws/Bits.lean ====
section
/-! SUPPORT. Laws of the byte and address helpers: a 16-bit value and its two bytes, and the stack page. -/

namespace Sys2Proof

/-- The two bytes of an address make it up. -/
@[simp] theorem word16_hi_lo (a : Addr) : word16 (hi a) (lo a) = a := by
  apply BitVec.eq_of_getLsbD_eq
  intro i h
  simp only [word16, hi, lo, BitVec.getLsbD_append, BitVec.getLsbD_setWidth, BitVec.getLsbD_ushiftRight]
  by_cases h8 : i < 8
  · simp [h8]
  · simp [h8, show i - 8 < 8 by omega, show 8 + (i - 8) = i by omega]

@[simp] theorem hi_word16 (h l : Byte) : hi (word16 h l) = h := by
  apply BitVec.eq_of_getLsbD_eq
  intro i hi'
  simp only [word16, hi, BitVec.getLsbD_append, BitVec.getLsbD_setWidth, BitVec.getLsbD_ushiftRight]
  simp [hi', show ¬ 8 + i < 8 by omega]

@[simp] theorem lo_word16 (h l : Byte) : lo (word16 h l) = l := by
  apply BitVec.eq_of_getLsbD_eq
  intro i hi'
  simp only [word16, lo, BitVec.getLsbD_append, BitVec.getLsbD_setWidth]
  simp [hi']

/-- A byte as an address keeps its number. -/
theorem zext16_toNat (b : Byte) : (zext16 b).toNat = b.toNat := by
  have := b.isLt
  simp only [zext16, BitVec.toNat_setWidth]
  omega

namespace Machine

/-- The stack byte at S is at 0x0100 + S (R32). -/
theorem stackAddr_toNat (sp : Byte) : (stackAddr sp).toNat = 256 + sp.toNat := by
  have := sp.isLt
  show (0x0100#16 + zext16 sp).toNat = _
  rw [BitVec.toNat_add, zext16_toNat]
  simp only [BitVec.toNat_ofNat]
  omega

/-- Two stack pointers address the same byte only where they are equal. -/
theorem stackAddr_inj {a b : Byte} : stackAddr a = stackAddr b ↔ a = b := by
  refine ⟨fun h => BitVec.eq_of_toNat_eq ?_, fun h => by rw [h]⟩
  have := congrArg BitVec.toNat h
  rw [stackAddr_toNat, stackAddr_toNat] at this
  omega


end Machine

end Sys2Proof
end

