-- ==== Sys2Proof/Laws/Breakpoints.lean ====
section
/-! SUPPORT. The breakpoint table: what an edit does to both structures, and that they stay in agreement (R475). -/

namespace Sys2Proof.Machine

open Sys2Proof

/-- A bit of the recomputed dense entry is set where some sparse entry that shares the logical address has it. -/
theorem denseOf_bit (cfg : Config) (sparse : List Host.Cell) (l k : Nat) :
    (denseOf cfg sparse l).getLsbD k = true ↔
      ∃ c ∈ sparse, l ∈ logical cfg c.1 ∧ c.2.getLsbD k = true := by
  induction sparse with
  | nil => simp [denseOf]
  | cons c cs ih =>
    have hd : denseOf cfg (c :: cs) l =
        if (logical cfg c.1).contains l then c.2 ||| denseOf cfg cs l else denseOf cfg cs l := rfl
    rw [hd]
    by_cases h : l ∈ logical cfg c.1
    · simp [h, ih]
    · simp [h, ih]

/-- A bit of a sparse entry is set where a cell that holds it lists the address. -/
theorem sparse_bit {sparse : List Host.Cell} (h : Memory.wf 0 sparse) (p k : Nat) :
    (Memory.read 0 sparse p).getLsbD k = true ↔ ∃ c ∈ sparse, c.1 = p ∧ c.2.getLsbD k = true := by
  constructor
  · intro hk
    have hne : Memory.read 0 sparse p ≠ 0 := by
      intro h0
      rw [h0] at hk
      simp at hk
    obtain ⟨b, hb⟩ := (Memory.read_ne_fill_iff h p).1 hne
    exact ⟨(p, b), hb, rfl, by rwa [Memory.read_of_mem h.1 hb] at hk⟩
  · rintro ⟨c, hc, rfl, hk⟩
    rwa [Memory.read_of_mem h.1 hc]

/-- Recomputed entries hold what the sparse map gives them, the others what they held. -/
theorem read_refreshDense (cfg : Config) (sparse : List Host.Cell) (ls : List Nat) {dense : List Host.Cell}
    (h : Memory.wf 0 dense) (l : Nat) :
    Memory.read 0 (refreshDense cfg sparse ls dense) l =
      if l ∈ ls then denseOf cfg sparse l else Memory.read 0 dense l := by
  induction ls generalizing dense with
  | nil => simp [refreshDense]
  | cons a ls ih =>
    simp only [refreshDense, ih (Memory.write_wf h _ _), Memory.read_write h.1, List.mem_cons]
    by_cases h1 : l ∈ ls
    · simp [h1]
    · by_cases h2 : l = a <;> simp [h1, h2]

theorem refreshDense_wf (cfg : Config) (sparse : List Host.Cell) (ls : List Nat) {dense : List Host.Cell}
    (h : Memory.wf 0 dense) : Memory.wf 0 (refreshDense cfg sparse ls dense) := by
  induction ls generalizing dense with
  | nil => exact h
  | cons a ls ih => exact ih (Memory.write_wf h _ _)

theorem mem_refreshDense {cfg : Config} {sparse : List Host.Cell} {ls : List Nat} {dense : List Host.Cell}
    {c : Host.Cell} (h : c ∈ refreshDense cfg sparse ls dense) : c ∈ dense ∨ c.1 ∈ ls := by
  induction ls generalizing dense with
  | nil => exact .inl h
  | cons a ls ih =>
    rcases ih h with h | h
    · rcases Memory.mem_write h with h | rfl
      · exact .inl h
      · exact .inr (by simp)
    · exact .inr (by simp [h])

/-- A logical address of a physical one lies in the logical space (R474). -/
theorem logical_le {cfg : Config} {p l : Nat} (h : l ∈ logical cfg p) : l ≤ 0xFFFF := by
  simp only [logical, List.mem_map, List.mem_filter, decide_eq_true_eq] at h
  obtain ⟨off, ⟨_, _, h2⟩, rfl⟩ := h
  exact h2

/-- Both structures of the table canonical, inside their spaces, and in agreement (R475). -/
structure TableOk (s : State) : Prop where
  denseForm : Memory.wf 0 s.bpDense
  denseBound : ∀ c ∈ s.bpDense, c.1 ≤ 0xFFFF
  sparseForm : Memory.wf 0 s.bpSparse
  sparseBound : ∀ c ∈ s.bpSparse, c.1 < s.cfg.memSize
  tables : tableAgrees s

/-- What replacing one flag byte does to the sparse map. -/
theorem setFlags_sparse {s : State} (h : Memory.wf 0 s.bpSparse) (p : Nat) (v : Byte) (q : Nat) :
    (s.setFlags p v).sparse q = if q = p then v else s.sparse q := Memory.read_write h.1 _ _ _

/-- Replacing one flag byte keeps the table in agreement (R471, R472, R475). -/
theorem setFlags_tableOk {s : State} (h : TableOk s) {p : Nat} (hp : p < s.cfg.memSize) (v : Byte) :
    TableOk (s.setFlags p v) := by
  have hw := Memory.write_wf h.sparseForm p v
  refine ⟨refreshDense_wf _ _ _ h.denseForm, fun c hc => ?_, hw, fun c hc => ?_, fun l hl k hk => ?_⟩
  · rcases mem_refreshDense hc with hc | hc
    · exact h.denseBound c hc
    · exact logical_le hc
  · rcases Memory.mem_write hc with hc | rfl
    · exact h.sparseBound c hc
    · exact hp
  · have hd : (s.setFlags p v).dense l =
        if l ∈ logical s.cfg p then denseOf s.cfg (s.setFlags p v).bpSparse l else s.dense l :=
      read_refreshDense _ _ _ h.denseForm l
    rw [hd]
    by_cases hlp : l ∈ logical s.cfg p
    · rw [if_pos hlp, denseOf_bit]
      constructor
      · rintro ⟨c, hc, hlc, hkc⟩
        exact ⟨c.1, hlc, (sparse_bit hw c.1 k).2 ⟨c, hc, rfl, hkc⟩⟩
      · rintro ⟨q, hlq, hkq⟩
        obtain ⟨c, hc, rfl, hkc⟩ := (sparse_bit hw q k).1 hkq
        exact ⟨c, hc, hlq, hkc⟩
    · rw [if_neg hlp, h.tables l hl k hk]
      have hq : ∀ q, l ∈ logical s.cfg q → (s.setFlags p v).sparse q = s.sparse q := fun q hq => by
        rw [setFlags_sparse h.sparseForm, if_neg]
        rintro rfl
        exact hlp hq
      constructor
      · rintro ⟨q, hlq, hkq⟩
        exact ⟨q, hlq, by rwa [hq q hlq]⟩
      · rintro ⟨q, hlq, hkq⟩
        exact ⟨q, hlq, by rwa [← hq q hlq]⟩

/-- `setFlags` changes nothing but the table. -/
theorem setFlags_eq (s : State) (p : Nat) (v : Byte) :
    s.setFlags p v = { s with bpDense := (s.setFlags p v).bpDense, bpSparse := (s.setFlags p v).bpSparse } := rfl

/-- What `add` does (R471): nothing but the table changes, which stays in agreement, and the bits are set on exactly the
range. -/
theorem bpAdd_spec (bits : Byte) (n p : Nat) {s : State} (h : TableOk s) (hr : p + n ≤ s.cfg.memSize) :
    TableOk (bpAdd bits n p s) ∧
      bpAdd bits n p s =
        { s with bpDense := (bpAdd bits n p s).bpDense, bpSparse := (bpAdd bits n p s).bpSparse } ∧
      ∀ q, (bpAdd bits n p s).sparse q = if p ≤ q ∧ q < p + n then s.sparse q ||| bits else s.sparse q := by
  induction n generalizing p s with
  | zero => exact ⟨h, rfl, fun q => by simp [bpAdd, show ¬ (p ≤ q ∧ q < p) by omega]⟩
  | succ n ih =>
    obtain ⟨h1, h2, h3⟩ := ih (p + 1) (setFlags_tableOk h (show p < s.cfg.memSize by omega) (s.sparse p ||| bits))
      (show p + 1 + n ≤ s.cfg.memSize by omega)
    refine ⟨h1, ?_, fun q => ?_⟩
    · show bpAdd bits n (p + 1) _ = _
      rw [h2]
      rfl
    · show (bpAdd bits n (p + 1) _).sparse q = _
      rw [h3, setFlags_sparse h.sparseForm]
      by_cases hq : q = p
      · subst hq
        simp [show ¬ q + 1 ≤ q by omega]
      · rw [if_neg hq]
        by_cases hr' : p + 1 ≤ q ∧ q < p + 1 + n
        · rw [if_pos hr', if_pos (by omega)]
        · rw [if_neg hr', if_neg (by omega)]

/-- What `remove` does (R472): nothing but the table changes, which stays in agreement, and the bits are cleared on
exactly the range. -/
theorem bpRemove_spec (bits : Byte) (n p : Nat) {s : State} (h : TableOk s) (hr : p + n ≤ s.cfg.memSize) :
    TableOk (bpRemove bits n p s) ∧
      bpRemove bits n p s =
        { s with bpDense := (bpRemove bits n p s).bpDense, bpSparse := (bpRemove bits n p s).bpSparse } ∧
      ∀ q, (bpRemove bits n p s).sparse q = if p ≤ q ∧ q < p + n then s.sparse q &&& ~~~bits else s.sparse q := by
  induction n generalizing p s with
  | zero => exact ⟨h, rfl, fun q => by simp [bpRemove, show ¬ (p ≤ q ∧ q < p) by omega]⟩
  | succ n ih =>
    obtain ⟨h1, h2, h3⟩ := ih (p + 1) (setFlags_tableOk h (show p < s.cfg.memSize by omega) (s.sparse p &&& ~~~bits))
      (show p + 1 + n ≤ s.cfg.memSize by omega)
    refine ⟨h1, ?_, fun q => ?_⟩
    · show bpRemove bits n (p + 1) _ = _
      rw [h2]
      rfl
    · show (bpRemove bits n (p + 1) _).sparse q = _
      rw [h3, setFlags_sparse h.sparseForm]
      by_cases hq : q = p
      · subst hq
        simp [show ¬ q + 1 ≤ q by omega]
      · rw [if_neg hq]
        by_cases hr' : p + 1 ≤ q ∧ q < p + 1 + n
        · rw [if_pos hr', if_pos (by omega)]
        · rw [if_neg hr', if_neg (by omega)]

/-- An accepted descriptor's range lies in the physical space (R480). -/
theorem validDescriptor_range {cfg : Config} {d : BpDescriptor} {bits : Byte} {first n : Nat}
    (h : validDescriptor cfg d = some (bits, first, n)) : first + n ≤ cfg.memSize := by
  unfold validDescriptor at h
  cases hk : kindBits d.kind with
  | none => rw [hk] at h; cases h
  | some b =>
    rw [hk] at h
    simp only at h
    split at h
    · cases h
      rename_i hr
      omega
    · cases h

/-- An empty table is in agreement (R473). -/
theorem empty_tableOk {s : State} (hd : s.bpDense = []) (hs : s.bpSparse = []) : TableOk s := by
  refine ⟨?_, ?_, ?_, ?_, fun l _ k _ => ?_⟩
  · rw [hd]; exact ⟨.nil, nofun⟩
  · rw [hd]; nofun
  · rw [hs]; exact ⟨.nil, nofun⟩
  · rw [hs]; nofun
  · simp [State.dense, State.sparse, hd, hs]

/-- The host's table edits change nothing but the table and keep it in agreement. -/
theorem addBreakpoint_spec (d : BpDescriptor) {s : State} (h : TableOk s) :
    TableOk (addBreakpoint d s) ∧ addBreakpoint d s =
      { s with bpDense := (addBreakpoint d s).bpDense, bpSparse := (addBreakpoint d s).bpSparse } := by
  unfold addBreakpoint
  cases hv : validDescriptor s.cfg d with
  | none => exact ⟨h, rfl⟩
  | some r =>
    obtain ⟨bits, first, n⟩ := r
    simp only
    split
    · obtain ⟨h1, h2, _⟩ := bpAdd_spec bits n first h (validDescriptor_range hv)
      exact ⟨h1, h2⟩
    · exact ⟨h, rfl⟩

theorem removeBreakpoint_spec (d : BpDescriptor) {s : State} (h : TableOk s) :
    TableOk (removeBreakpoint d s) ∧ removeBreakpoint d s =
      { s with bpDense := (removeBreakpoint d s).bpDense, bpSparse := (removeBreakpoint d s).bpSparse } := by
  unfold removeBreakpoint
  cases hv : validDescriptor s.cfg d with
  | none => exact ⟨h, rfl⟩
  | some r =>
    obtain ⟨bits, first, n⟩ := r
    obtain ⟨h1, h2, _⟩ := bpRemove_spec bits n first h (validDescriptor_range hv)
    exact ⟨h1, h2⟩

/-- The banks of the standard configuration are registered (R10). -/
theorem standard_banksRegistered : Config.standard.banksRegistered := by
  intro off
  constructor
  · intro h
    exact ⟨0, .read, 0, (List.mem_singleton.1 h).symm⟩
  · rintro ⟨sw, k, a, rfl⟩
    exact List.mem_singleton_self 0

/-- Where the banks are registered, a physical address that an access at `a` resolves to lists `a` (R474). -/
theorem mem_logical_phys {cfg : Config} (h : cfg.banksRegistered) (sw : SwitchState) (k : AccessKind) (a : Addr) :
    a.toNat ∈ logical cfg (physAddr cfg sw k a) := by
  have ha := a.isLt
  unfold logical physAddr
  refine List.mem_map.2 ⟨bankOffset cfg sw k a, List.mem_filter.2 ⟨(h _).2 ⟨sw, k, a, rfl⟩, decide_eq_true ?_⟩, ?_⟩
  · omega
  · omega

/-- With registered banks and the bank-exact mode, a flag hits exactly where the resolved physical address has it:
the dense array only filters (R475, R476). -/
theorem flagHit_exact {s : State} (hb : s.cfg.banksRegistered) (he : s.cfg.bpBankExact = true) (ht : tableAgrees s)
    (flag : Byte) (k : AccessKind) (a : Addr) :
    flagHit s flag k a = true ↔ s.sparse (s.phys k a) &&& flag ≠ 0 := by
  have hbits : ∀ b : Byte, b ≠ 0 ↔ ∃ j, j < 8 ∧ b.getLsbD j = true := by decide
  unfold flagHit
  simp only [he, Bool.not_true, Bool.false_or, Bool.and_eq_true, bne_iff_ne, and_iff_right_iff_imp]
  intro h
  obtain ⟨j, hj, hs⟩ := (hbits _).1 h
  rw [BitVec.getLsbD_and, Bool.and_eq_true] at hs
  refine (hbits _).2 ⟨j, hj, ?_⟩
  rw [BitVec.getLsbD_and, Bool.and_eq_true]
  exact ⟨(ht _ (by have := a.isLt; omega) j hj).2 ⟨_, mem_logical_phys hb s.sw k a, hs.1⟩, hs.2⟩

end Sys2Proof.Machine
end

