-- ==== Sys2Proof/Laws/Operands.lean ====
section
/-! SUPPORT. What the addressing modes, the operand reads and the shared sequences can do. -/

namespace Sys2Proof.Machine

open Sys2Proof

/-- The effective address is found by data reads alone. -/
theorem effAddr_readsOnly {pl : Place} {s t : State} {ea : EffAddr} (h : effAddr pl s = .done ea t) : ReadsOnly s t := by
  cases pl <;> simp only [effAddr] at h
  case izx z =>
    obtain ⟨w, u, h1, h⟩ := Access.bind_eq_done.1 h
    cases h; exact (readPair_done h1).1
  case izy z =>
    obtain ⟨w, u, h1, h⟩ := Access.bind_eq_done.1 h
    cases h; exact (readPair_done h1).1
  case izp z =>
    obtain ⟨w, u, h1, h⟩ := Access.bind_eq_done.1 h
    cases h; exact (readPair_done h1).1
  all_goals cases h; exact .refl s

/-- Where every address is in range, the effective address is found. -/
theorem effAddr_completes {s : State} (h : s.cfg.mapsInRange) (pl : Place) :
    ∃ ea t, effAddr pl s = .done ea t ∧ ReadsOnly s t := by
  cases pl
  case izx z =>
    obtain ⟨w, t, h1, r⟩ := readPair_completes h (zext16 (z + s.x)) (zext16 (z + s.x + 1))
    exact ⟨plainAddr w, t, by simp only [effAddr, zpRead16, h1, Access.bind_done], r⟩
  case izy z =>
    obtain ⟨w, t, h1, r⟩ := readPair_completes h (zext16 z) (zext16 (z + 1))
    exact ⟨indexed w t.y, t, by simp only [effAddr, zpRead16, h1, Access.bind_done], r⟩
  case izp z =>
    obtain ⟨w, t, h1, r⟩ := readPair_completes h (zext16 z) (zext16 (z + 1))
    exact ⟨plainAddr w, t, by simp only [effAddr, zpRead16, h1, Access.bind_done], r⟩
  all_goals exact ⟨_, s, rfl, .refl s⟩

/-- An operand read: the immediate byte, or the byte at the effective address (R182, R196). -/
theorem readSource_done {src : Source} {s t : State} {m : OperandByte} (h : readSource src s = .done m t) :
    ReadsOnly s t := by
  cases src with
  | imm v => cases h; exact .refl s
  | mem pl =>
    obtain ⟨ea, u, h1, h⟩ := Access.bind_eq_done.1 h
    obtain ⟨b, w, h2, h⟩ := Access.bind_eq_done.1 h
    cases h
    exact (effAddr_readsOnly h1).trans (memRead_readsOnly h2)

/-- Where every address is in range, an operand read completes. -/
theorem readSource_completes {s : State} (h : s.cfg.mapsInRange) (src : Source) :
    ∃ m t, readSource src s = .done m t ∧ ReadsOnly s t := by
  cases src with
  | imm v => exact ⟨_, s, rfl, .refl s⟩
  | mem pl =>
    obtain ⟨ea, u, h1, r1⟩ := effAddr_completes h pl
    obtain ⟨t, h2, r2⟩ := memRead_completes (s := u) (r1.cfg ▸ h) ea.addr
    exact ⟨⟨u.byteAt ea.addr, ea.cross⟩, t, by simp only [readSource, h1, h2, Access.bind_done], r1.trans r2⟩

/-- The states an operation leads to: the registers, the flags, PC, memory, the switches and `pending_halt` may differ,
memory stays canonical and inside the physical space. -/
structure Operates (s t : State) : Prop where
  same : t = { s with
    a := t.a, x := t.x, y := t.y, sp := t.sp, pc := t.pc, p := t.p, mem := t.mem, sw := t.sw
    pendingHalt := t.pendingHalt }
  wf : Memory.wf s.cfg.initFill s.mem → Memory.wf s.cfg.initFill t.mem
  bound : (∀ c ∈ s.mem, c.1 < s.cfg.memSize) → ∀ c ∈ t.mem, c.1 < s.cfg.memSize

theorem Operates.cfg {s t : State} (h : Operates s t) : t.cfg = s.cfg := by rw [h.same]

theorem Operates.trans {s t u : State} (h : Operates s t) (h' : Operates t u) : Operates s u := by
  have hc := h.cfg
  refine ⟨?_, fun hw => ?_, fun hb => ?_⟩
  · rw [h'.same, h.same]
  · have := h'.wf; rw [hc] at this; exact this (h.wf hw)
  · have := h'.bound; rw [hc] at this; exact this (h.bound hb)

theorem Accesses.operates {s t : State} (h : Accesses s t) : Operates s t :=
  ⟨by rw [h.same], h.wf, h.bound⟩

theorem ReadsOnly.operates {s t : State} (h : ReadsOnly s t) : Operates s t := h.accesses.operates

/-- Registers, flags, PC and `pending_halt` may be written freely. -/
theorem Operates.of_registers {s t : State}
    (h : t = { s with a := t.a, x := t.x, y := t.y, sp := t.sp, pc := t.pc, p := t.p, pendingHalt := t.pendingHalt }) :
    Operates s t := by
  refine ⟨by rw [h], fun hw => ?_, fun hb => ?_⟩
  · rw [h]; exact hw
  · rw [h]; exact hb

theorem Operates.refl (s : State) : Operates s s := .of_registers rfl

theorem Operates.setRegNZ (s : State) (r : Reg) (v : Byte) : Operates s (s.setRegNZ r v) :=
  .of_registers (by cases r <;> rfl)

theorem Operates.setFlagsP (s : State) (p : Flags) : Operates s (s.setFlagsP p) := .of_registers rfl

theorem Operates.setPc (s : State) (a : Addr) : Operates s (s.setPc a) := .of_registers rfl

theorem push_operates {v : Byte} {s t : State} {x : Unit} (h : push v s = .done x t) : Operates s t := by
  obtain ⟨u, h1, rfl⟩ := push_done h
  exact (memWrite_accesses h1).operates.trans (.of_registers rfl)

theorem pull_operates {v : Byte} {s t : State} (h : pull s = .done v t) : Operates s t :=
  Operates.trans (t := { s with sp := s.sp + 1 }) (.of_registers rfl) (pull_done h).2.operates

theorem push16_operates {w : Addr} {s t : State} {x : Unit} (h : push16 w s = .done x t) : Operates s t := by
  obtain ⟨y, u, h1, h⟩ := Access.bind_eq_done.1 h
  exact (push_operates h1).trans (push_operates h)

theorem pull16_operates {w : Addr} {s t : State} (h : pull16 s = .done w t) : Operates s t := by
  obtain ⟨l, u, h1, h⟩ := Access.bind_eq_done.1 h
  obtain ⟨g, v, h2, h⟩ := Access.bind_eq_done.1 h
  cases h
  exact (pull_operates h1).trans (pull_operates h2)

theorem push16_completes {s : State} (h : s.cfg.mapsInRange) (w : Addr) :
    ∃ t, push16 w s = .done () t ∧ t.cfg = s.cfg := by
  obtain ⟨u, h1, c1⟩ := push_completes h (hi w)
  obtain ⟨t, h2, c2⟩ := push_completes (s := u) (c1 ▸ h) (lo w)
  exact ⟨t, by simp only [push16, h1, h2, Access.bind_done], c2.trans c1⟩

theorem pull16_completes {s : State} (h : s.cfg.mapsInRange) :
    ∃ w t, pull16 s = .done w t ∧ t.cfg = s.cfg := by
  obtain ⟨l, u, h1, r1⟩ := pull_completes h
  have c1 : u.cfg = s.cfg := r1.cfg
  obtain ⟨g, t, h2, r2⟩ := pull_completes (s := u) (c1 ▸ h)
  have c2 : t.cfg = u.cfg := r2.cfg
  exact ⟨word16 g l, t, by simp only [pull16, h1, h2, Access.bind_done], c2.trans c1⟩

theorem takeException_operates {vec ret : Addr} {b : Bool} {s t : State} {x : Unit}
    (h : takeException vec ret b s = .done x t) : Operates s t := by
  obtain ⟨_, u, h1, h⟩ := Access.bind_eq_done.1 h
  obtain ⟨_, v, h2, h⟩ := Access.bind_eq_done.1 h
  obtain ⟨w, z, h3, h⟩ := Access.bind_eq_done.1 h
  cases h
  exact ((((push16_operates h1).trans (push_operates h2)).trans (.setFlagsP _ _)).trans
    (readPair_done h3).1.operates).trans (.setPc _ _)

theorem takeException_completes {s : State} (h : s.cfg.mapsInRange) (vec ret : Addr) (b : Bool) :
    ∃ t, takeException vec ret b s = .done () t ∧ t.cfg = s.cfg := by
  obtain ⟨u, h1, c1⟩ := push16_completes h ret
  obtain ⟨v, h2, c2⟩ := push_completes (s := u) (c1 ▸ h) (pbyte u.p b)
  have c3 : v.cfg = s.cfg := c2.trans c1
  obtain ⟨w, z, h3, r3⟩ := readPair_completes
    (s := v.setFlagsP { v.p with i := true, d := if v.cfg.variant.cmos then false else v.p.d }) (c3 ▸ h) vec (vec + 1)
  refine ⟨z.setPc w, ?_, ?_⟩
  · simp only [takeException, h1, h2, Access.bind_done, read16, h3]
  · exact r3.cfg.trans c3

theorem returnFromException_operates {s t : State} {x : Unit} (h : returnFromException s = .done x t) :
    Operates s t := by
  obtain ⟨v, u, h1, h⟩ := Access.bind_eq_done.1 h
  obtain ⟨w, z, h2, h⟩ := Access.bind_eq_done.1 h
  cases h
  exact (((pull_operates h1).trans (.setFlagsP _ _)).trans (pull16_operates h2)).trans (.setPc _ _)

theorem returnFromException_completes {s : State} (h : s.cfg.mapsInRange) :
    ∃ t, returnFromException s = .done () t ∧ t.cfg = s.cfg := by
  obtain ⟨v, u, h1, r1⟩ := pull_completes h
  have c1 : u.cfg = s.cfg := r1.cfg
  obtain ⟨w, z, h2, c2⟩ := pull16_completes (s := u.setFlagsP (flagsOfByte v)) (by simpa [c1] using h)
  exact ⟨z.setPc w, by simp only [returnFromException, h1, h2, Access.bind_done], by simpa [c1] using c2⟩

/-- A store: the effective address, then one data write (R234 to R237). -/
theorem storeTo_done {pl : Place} {val : State → Byte} {s t : State} {ti : Timing} (h : storeTo pl val s = .done ti t) :
    ∃ ea u, effAddr pl s = .done ea u ∧ memWrite ea.addr (val u) u = .done () t ∧ ti = { cross := ea.cross } := by
  obtain ⟨ea, u, h1, h⟩ := Access.bind_eq_done.1 h
  obtain ⟨_, w, h2, h⟩ := Access.bind_eq_done.1 h
  cases h
  exact ⟨ea, u, h1, h2, rfl⟩

theorem storeTo_completes {s : State} (h : s.cfg.mapsInRange) (pl : Place) (val : State → Byte) :
    ∃ ea u t, effAddr pl s = .done ea u ∧ memWrite ea.addr (val u) u = .done () t ∧
      storeTo pl val s = .done { cross := ea.cross } t := by
  obtain ⟨ea, u, h1, r1⟩ := effAddr_completes h pl
  obtain ⟨t, h2, _⟩ := memWrite_completes (s := u) (r1.cfg ▸ h) ea.addr (val u)
  exact ⟨ea, u, t, h1, h2, by simp only [storeTo, h1, h2, Access.bind_done]⟩

/-- A read-modify-write, flags first: one read, then one write of the same address (R95, R196). -/
theorem modifyFlagsFirst_done {pl : Place} {f : State → Byte → Byte × Flags} {s t : State} {ti : Timing}
    (h : modifyFlagsFirst pl f s = .done ti t) :
    ∃ ea u m v, effAddr pl s = .done ea u ∧ memRead ea.addr u = .done m v ∧
      memWrite ea.addr (f v m).1 (v.setFlagsP (f v m).2) = .done () t ∧ ti = { cross := ea.cross } := by
  obtain ⟨ea, u, h1, h⟩ := Access.bind_eq_done.1 h
  obtain ⟨m, v, h2, h⟩ := Access.bind_eq_done.1 h
  obtain ⟨_, w, h3, h⟩ := Access.bind_eq_done.1 h
  cases h
  exact ⟨ea, u, m, v, h1, h2, h3, rfl⟩

theorem modifyFlagsFirst_completes {s : State} (h : s.cfg.mapsInRange) (pl : Place) (f : State → Byte → Byte × Flags) :
    ∃ ea u m v t, effAddr pl s = .done ea u ∧ memRead ea.addr u = .done m v ∧
      memWrite ea.addr (f v m).1 (v.setFlagsP (f v m).2) = .done () t ∧
      modifyFlagsFirst pl f s = .done { cross := ea.cross } t := by
  obtain ⟨ea, u, h1, r1⟩ := effAddr_completes h pl
  obtain ⟨v, h2, r2⟩ := memRead_completes (s := u) (r1.cfg ▸ h) ea.addr
  have hc : v.cfg = s.cfg := r2.cfg.trans r1.cfg
  obtain ⟨t, h3, _⟩ := memWrite_completes (s := v.setFlagsP (f v (u.byteAt ea.addr)).2) (by simpa [hc] using h)
    ea.addr (f v (u.byteAt ea.addr)).1
  exact ⟨ea, u, _, v, t, h1, h2, h3, by simp only [modifyFlagsFirst, h1, h2, h3, Access.bind_done]⟩

/-- A read-modify-write, flags last: one read, then one write of the same address (R95, R196). -/
theorem modifyFlagsLast_done {pl : Place} {f : Byte → Byte} {fl : Byte → Flags → Flags} {s t : State} {ti : Timing}
    (h : modifyFlagsLast pl f fl s = .done ti t) :
    ∃ ea u m v w, effAddr pl s = .done ea u ∧ memRead ea.addr u = .done m v ∧
      memWrite ea.addr (f m) v = .done () w ∧ t = w.setFlagsP (fl (f m) w.p) ∧ ti = { cross := ea.cross } := by
  obtain ⟨ea, u, h1, h⟩ := Access.bind_eq_done.1 h
  obtain ⟨m, v, h2, h⟩ := Access.bind_eq_done.1 h
  obtain ⟨_, w, h3, h⟩ := Access.bind_eq_done.1 h
  cases h
  exact ⟨ea, u, m, v, w, h1, h2, h3, rfl, rfl⟩

theorem modifyFlagsLast_completes {s : State} (h : s.cfg.mapsInRange) (pl : Place) (f : Byte → Byte)
    (fl : Byte → Flags → Flags) :
    ∃ ea u m v w, effAddr pl s = .done ea u ∧ memRead ea.addr u = .done m v ∧
      memWrite ea.addr (f m) v = .done () w ∧
      modifyFlagsLast pl f fl s = .done { cross := ea.cross } (w.setFlagsP (fl (f m) w.p)) := by
  obtain ⟨ea, u, h1, r1⟩ := effAddr_completes h pl
  obtain ⟨v, h2, r2⟩ := memRead_completes (s := u) (r1.cfg ▸ h) ea.addr
  have hc : v.cfg = s.cfg := r2.cfg.trans r1.cfg
  obtain ⟨w, h3, _⟩ := memWrite_completes (s := v) (hc ▸ h) ea.addr (f (u.byteAt ea.addr))
  exact ⟨ea, u, _, v, w, h1, h2, h3, by simp only [modifyFlagsLast, h1, h2, h3, Access.bind_done]⟩

/-- A jump target is read by data reads alone. -/
theorem indirectTarget_done {ptr w : Addr} {s t : State} (h : indirectTarget ptr s = .done w t) : ReadsOnly s t := by
  unfold indirectTarget at h
  split at h
  · exact (readPair_done h).1
  · exact (readPair_done h).1

theorem indirectTarget_completes {s : State} (h : s.cfg.mapsInRange) (ptr : Addr) :
    ∃ w t, indirectTarget ptr s = .done w t ∧ ReadsOnly s t := by
  unfold indirectTarget
  split
  · exact readPair_completes h _ _
  · exact readPair_completes h _ _

end Sys2Proof.Machine
end

