-- ==== Sys2Proof/Laws/Exec.lean ====
section
/-! SUPPORT. What an instruction can do: which shared operation each row performs, when the frame around the operation
completes, and what every instruction leaves alone. -/

namespace Sys2Proof.Machine

open Sys2Proof

/-- The frame of an instruction answers a next state exactly where its operation completes. -/
theorem instruction_next {i : Instr} {op : State → Access Timing} {s t : State} :
    instruction i op s = .next t ↔
      ∃ ti u, op (s.advance i) = .done ti u ∧ t = u.complete (cost u.cfg.variant i ti) := by
  unfold instruction State.advance
  cases op (s.setPc (s.pc + BitVec.ofNat 16 i.length)) <;> simp [finish, eq_comm]

/-- Where the operation completes, so does the instruction. -/
theorem instruction_done {i : Instr} {op : State → Access Timing} {s u : State} {ti : Timing}
    (h : op (s.advance i) = .done ti u) : instruction i op s = .next (u.complete (cost u.cfg.variant i ti)) :=
  instruction_next.2 ⟨ti, u, h, rfl⟩

/-- The frame of an instruction answers a fault exactly where its operation meets an out-of-range access (R445). -/
theorem instruction_fault {i : Instr} {op : State → Access Timing} {s : State} {r : Fault} :
    instruction i op s = .fault r ↔
      ∃ p u, op (s.advance i) = .outOfRange p u ∧ r = .outOfRange p (u.haltOutOfRange s.pc p) := by
  unfold instruction State.advance
  cases op (s.setPc (s.pc + BitVec.ofNat 16 i.length)) <;> simp [finish, eq_comm]

/-- The frame of an instruction never refuses. -/
theorem instruction_not_refused {i : Instr} {op : State → Access Timing} {s : State} {r : Refusal} :
    instruction i op s ≠ .refused r := by
  unfold instruction
  cases op (s.setPc (s.pc + BitVec.ofNat 16 i.length)) <;> simp [finish]

/-- A row that takes no page penalty has a fixed cost (R174). -/
theorem cost_fixed {v : Variant} {i : Instr} (h : i.hasPagePenalty v = false) (cross : Bool) :
    cost v i { cross := cross } = i.baseCycles v := by
  simp [cost, h, bit]

/-! ### The operation of each class of instructions -/

section Classes

variable {i : Instr} {s : State}

theorem exec_load {r : Reg} {src : Source} (h : loadTarget i.mnemonic = some r) (hs : i.operand.source? = some src) :
    exec i s = instruction i (load r src) s := by
  cases i <;> cases h <;> cases hs <;> rfl

theorem exec_store {f : State → Byte} {pl : Place} (h : storeValue i.mnemonic = some f)
    (hp : i.operand.place? = some pl) : exec i s = instruction i (storeTo pl f) s := by
  cases i <;> cases h <;> cases hp <;> rfl

theorem exec_transfer {src dst : Reg} (h : transferPair i.mnemonic = some (src, dst)) :
    exec i s = instruction i (transfer src dst) s := by
  cases i <;> cases h <;> rfl

theorem exec_push {f : State → Byte} (h : pushValue i.mnemonic = some f) :
    exec i s = instruction i (fun s => (push (f s) s).bind fun _ s => .done {} s) s := by
  cases i <;> cases h <;> rfl

theorem exec_pull {r : Reg} (h : pullTarget i.mnemonic = some r) : exec i s = instruction i (pullReg r) s := by
  cases i <;> cases h <;> rfl

theorem exec_adc {src : Source} (h : i.mnemonic = .adc) (hs : i.operand.source? = some src) :
    exec i s = instruction i (addToA src) s := by
  cases i <;> cases h <;> cases hs <;> rfl

theorem exec_sbc {src : Source} (h : i.mnemonic = .sbc) (hs : i.operand.source? = some src) :
    exec i s = instruction i (subFromA src) s := by
  cases i <;> cases h <;> cases hs <;> rfl

theorem exec_compare {r : Reg} {src : Source} (h : compareSubject i.mnemonic = some r)
    (hs : i.operand.source? = some src) : exec i s = instruction i (compareReg r src) s := by
  cases i <;> cases h <;> cases hs <;> rfl

theorem exec_logic {f : Byte → Byte → Byte} {src : Source} (h : logicOp i.mnemonic = some f)
    (hs : i.operand.source? = some src) : exec i s = instruction i (logic f src) s := by
  cases i <;> cases h <;> cases hs <;> rfl

theorem exec_bitMem {pl : Place} (h : i.mnemonic = .bit) (hp : i.operand.place? = some pl) :
    exec i s = instruction i (testA testBits (.mem pl)) s := by
  cases i <;> cases h <;> cases hp <;> rfl

/-- The flags after a shift or rotate of the byte `m`: N and Z of the result, and the carry out (R324 to R327). -/
def shiftResult (f : Byte → Bool → Byte × Bool) (m : Byte) (p : Flags) : Byte × Flags :=
  ((f m p.c).1, { p with n := (f m p.c).1.getLsbD 7, z := (f m p.c).1 == 0, c := (f m p.c).2 })

theorem exec_shiftA {f : Byte → Bool → Byte × Bool} (h : shiftOp i.mnemonic = some f)
    (ht : i.operand.target? = some .acc) : exec i s = instruction i (shiftA (shiftResult f)) s := by
  cases i <;> cases h <;> cases ht <;> rfl

theorem exec_shiftMem {f : Byte → Bool → Byte × Bool} {pl : Place} (h : shiftOp i.mnemonic = some f)
    (ht : i.operand.target? = some (.mem pl)) : exec i s = instruction i (shiftMem (shiftResult f) pl) s := by
  cases i <;> cases h <;> cases ht <;> rfl

theorem exec_incDecA {f : Byte → Byte} (h : incDecOp i.mnemonic = some f) (ht : i.operand.target? = some .acc) :
    exec i s = instruction i (changeReg .a f) s := by
  cases i <;> cases h <;> cases ht <;> rfl

theorem exec_incDecMem {f : Byte → Byte} {pl : Place} (h : incDecOp i.mnemonic = some f)
    (ht : i.operand.target? = some (.mem pl)) : exec i s = instruction i (modifyFlagsLast pl f setNZ) s := by
  cases i <;> cases h <;> cases ht <;> rfl

theorem exec_indexStep {r : Reg} {f : Byte → Byte} (h : indexStep i.mnemonic = some (r, f)) :
    exec i s = instruction i (changeReg r f) s := by
  cases i <;> cases h <;> rfl

theorem exec_testAndSet {f : Byte → Byte → Byte} {pl : Place} (h : testAndSetOp i.mnemonic = some f)
    (hp : i.operand.place? = some pl) : exec i s = instruction i (testAndChange f pl) s := by
  cases i <;> cases h <;> cases hp <;> rfl

theorem exec_resetBit {n : Nat} {z : Byte} (h : resetBit i.mnemonic = some n) (ho : i.operand = .mem (.zp z)) :
    exec i s = instruction i (changeBits (fun m => m &&& ~~~bitMask n) z) s := by
  cases i <;> cases h <;> cases ho <;> rfl

theorem exec_setBit {n : Nat} {z : Byte} (h : setBit i.mnemonic = some n) (ho : i.operand = .mem (.zp z)) :
    exec i s = instruction i (changeBits (fun m => m ||| bitMask n) z) s := by
  cases i <;> cases h <;> cases ho <;> rfl

theorem exec_branch {cond : Flags → Bool} {r : Byte} (h : branchCondition i.mnemonic = some cond)
    (ho : i.operand = .rel r) : exec i s = instruction i (branchIf cond r) s := by
  cases i <;> cases h <;> cases ho <;> rfl

theorem exec_bitBranch {n : Nat} {want : Bool} {z r : Byte} (h : bitBranch i.mnemonic = some (n, want))
    (ho : i.operand = .zpr z r) : exec i s = instruction i (branchOnBit n want z r) s := by
  cases i <;> cases h <;> cases ho <;> rfl

theorem exec_flag {f : Flags → Flags} (h : flagOp i.mnemonic = some f) :
    exec i s = instruction i (registerOnly fun s => s.setFlagsP (f s.p)) s := by
  cases i <;> cases h <;> rfl

end Classes

/-! ### What any instruction can do -/

/-- What a sequence of accesses begun in `s` can come to: it completes in a state an instruction may lead to, or it
stops at an address at or above `MEM_SIZE`, which only a map that leaves the physical space can give. -/
def Access.Within {α : Type} (s : State) : Access α → Prop
  | .done _ t => Operates s t
  | .outOfRange p u => Operates s u ∧ s.cfg.memSize ≤ p ∧ ¬ s.cfg.mapsInRange

theorem Access.Within.bind {α β : Type} {s : State} {x : Access α} {f : α → State → Access β} (hx : x.Within s)
    (hf : ∀ v t, x = .done v t → (f v t).Within t) : (x.bind f).Within s := by
  cases x with
  | outOfRange p u => exact hx
  | done v t =>
    have h := hf v t rfl
    simp only [Access.bind_done]
    cases hft : f v t with
    | done w u => rw [hft] at h; exact hx.trans h
    | outOfRange p u =>
      rw [hft] at h
      have hc := Operates.cfg hx
      exact ⟨hx.trans h.1, hc ▸ h.2.1, hc ▸ h.2.2⟩

/-- An operation that first changes registers. -/
theorem Access.Within.of_operates {α : Type} {s t : State} {x : Access α} (h : Operates s t) (hx : x.Within t) :
    x.Within s := by
  have hc := h.cfg
  cases x with
  | done v u => exact h.trans hx
  | outOfRange p u => exact ⟨h.trans hx.1, hc ▸ hx.2.1, hc ▸ hx.2.2⟩

theorem memRead_within (a : Addr) (s : State) : (memRead a s).Within s := by
  rw [memRead_eq]
  split
  · exact ReadsOnly.operates rfl
  · rename_i h
    exact ⟨ReadsOnly.operates rfl, Nat.not_lt.1 h, fun hm => h (hm _ _ _)⟩

theorem memWrite_within (a : Addr) (v : Byte) (s : State) : (memWrite a v s).Within s := by
  cases h : memWrite a v s with
  | done _ t => exact (memWrite_accesses h).operates
  | outOfRange p u =>
    rw [memWrite_eq] at h
    split at h <;> cases h
    rename_i h
    exact ⟨ReadsOnly.operates rfl, Nat.not_lt.1 h, fun hm => h (hm _ _ _)⟩

theorem done_within {α : Type} {v : α} {s t : State} (h : Operates s t) : (Access.done v t).Within s := h

theorem readPair_within (l h : Addr) (s : State) : (readPair l h s).Within s :=
  (memRead_within _ _).bind fun _ _ _ => (memRead_within _ _).bind fun _ _ _ => done_within (.refl _)

theorem push_within (v : Byte) (s : State) : (push v s).Within s :=
  (memWrite_within _ _ _).bind fun _ _ _ => done_within (.of_registers rfl)

theorem pull_within (s : State) : (pull s).Within s :=
  .of_operates (t := { s with sp := s.sp + 1 }) (.of_registers rfl) (memRead_within _ _)

theorem push16_within (w : Addr) (s : State) : (push16 w s).Within s :=
  (push_within _ _).bind fun _ _ _ => push_within _ _

theorem pull16_within (s : State) : (pull16 s).Within s :=
  (pull_within _).bind fun _ _ _ => (pull_within _).bind fun _ _ _ => done_within (.refl _)

theorem takeException_within (vec ret : Addr) (b : Bool) (s : State) : (takeException vec ret b s).Within s :=
  (push16_within _ _).bind fun _ _ _ => (push_within _ _).bind fun _ _ _ =>
    .of_operates (.setFlagsP _ _) ((readPair_within _ _ _).bind fun _ _ _ => done_within (.setPc _ _))

theorem returnFromException_within (s : State) : (returnFromException s).Within s :=
  (pull_within _).bind fun _ _ _ =>
    .of_operates (.setFlagsP _ _) ((pull16_within _).bind fun _ _ _ => done_within (.setPc _ _))

theorem effAddr_within (pl : Place) (s : State) : (effAddr pl s).Within s := by
  cases pl with
  | izx z => exact (readPair_within _ _ _).bind fun _ _ _ => done_within (.refl _)
  | izy z => exact (readPair_within _ _ _).bind fun _ _ _ => done_within (.refl _)
  | izp z => exact (readPair_within _ _ _).bind fun _ _ _ => done_within (.refl _)
  | _ => exact done_within (.refl _)

theorem readSource_within (src : Source) (s : State) : (readSource src s).Within s := by
  cases src with
  | imm v => exact done_within (.refl _)
  | mem pl => exact (effAddr_within _ _).bind fun _ _ _ => (memRead_within _ _).bind fun _ _ _ => done_within (.refl _)

theorem storeTo_within (pl : Place) (f : State → Byte) (s : State) : (storeTo pl f s).Within s :=
  (effAddr_within _ _).bind fun _ _ _ => (memWrite_within _ _ _).bind fun _ _ _ => done_within (.refl _)

theorem modifyFlagsFirst_within (pl : Place) (f : State → Byte → Byte × Flags) (s : State) :
    (modifyFlagsFirst pl f s).Within s :=
  (effAddr_within _ _).bind fun _ _ _ => (memRead_within _ _).bind fun _ _ _ =>
    .of_operates (.setFlagsP _ _) ((memWrite_within _ _ _).bind fun _ _ _ => done_within (.refl _))

theorem modifyFlagsLast_within (pl : Place) (f : Byte → Byte) (fl : Byte → Flags → Flags) (s : State) :
    (modifyFlagsLast pl f fl s).Within s :=
  (effAddr_within _ _).bind fun _ _ _ => (memRead_within _ _).bind fun _ _ _ =>
    (memWrite_within _ _ _).bind fun _ _ _ => done_within (.setFlagsP _ _)

theorem indirectTarget_within (ptr : Addr) (s : State) : (indirectTarget ptr s).Within s := by
  unfold indirectTarget
  split <;> exact readPair_within _ _ _

/-- An operation all of whose runs are within what an instruction may do. -/
def Bounded (op : State → Access Timing) : Prop := ∀ s, (op s).Within s

theorem bounded_load (r : Reg) (src : Source) : Bounded (load r src) := fun _ =>
  (readSource_within _ _).bind fun _ _ _ => done_within (.setRegNZ _ _ _)

theorem bounded_storeTo (pl : Place) (f : State → Byte) : Bounded (storeTo pl f) := fun _ => storeTo_within _ _ _

theorem bounded_transfer (src dst : Reg) : Bounded (transfer src dst) := fun _ => Operates.setRegNZ _ _ _

theorem bounded_setReg (f : State → Byte) (r : Reg) : Bounded (registerOnly fun s => s.setReg r (f s)) :=
  fun s => .of_registers (by cases r <;> rfl)

theorem bounded_flags (f : State → Flags) : Bounded (registerOnly fun s => s.setFlagsP (f s)) :=
  fun _ => Operates.setFlagsP _ _

theorem bounded_push (f : State → Byte) : Bounded fun s => (push (f s) s).bind fun _ s => .done {} s := fun _ =>
  (push_within _ _).bind fun _ _ _ => done_within (.refl _)

theorem bounded_pullReg (r : Reg) : Bounded (pullReg r) := fun _ =>
  (pull_within _).bind fun _ _ _ => done_within (.setRegNZ _ _ _)

theorem bounded_pullFlags : Bounded pullFlags := fun _ =>
  (pull_within _).bind fun _ _ _ => done_within (.setFlagsP _ _)

theorem bounded_addToA (src : Source) : Bounded (addToA src) := fun _ =>
  (readSource_within _ _).bind fun _ _ _ => done_within (.of_registers rfl)

theorem bounded_subFromA (src : Source) : Bounded (subFromA src) := fun _ =>
  (readSource_within _ _).bind fun _ _ _ => done_within (.of_registers rfl)

theorem bounded_compareReg (r : Reg) (src : Source) : Bounded (compareReg r src) := fun _ =>
  (readSource_within _ _).bind fun _ _ _ => done_within (.setFlagsP _ _)

theorem bounded_changeReg (r : Reg) (f : Byte → Byte) : Bounded (changeReg r f) := fun _ => Operates.setRegNZ _ _ _

theorem bounded_logic (f : Byte → Byte → Byte) (src : Source) : Bounded (logic f src) := fun _ =>
  (readSource_within _ _).bind fun _ _ _ => done_within (.setRegNZ _ _ _)

theorem bounded_testA (f : Byte → Byte → Flags → Flags) (src : Source) : Bounded (testA f src) := fun _ =>
  (readSource_within _ _).bind fun _ _ _ => done_within (.setFlagsP _ _)

theorem bounded_shiftA (f : Byte → Flags → Byte × Flags) : Bounded (shiftA f) := fun _ => Operates.of_registers rfl

theorem bounded_shiftMem (f : Byte → Flags → Byte × Flags) (pl : Place) : Bounded (shiftMem f pl) := fun _ =>
  modifyFlagsFirst_within _ _ _

theorem bounded_testAndChange (f : Byte → Byte → Byte) (pl : Place) : Bounded (testAndChange f pl) := fun _ =>
  modifyFlagsFirst_within _ _ _

theorem bounded_changeBits (f : Byte → Byte) (z : Byte) : Bounded (changeBits f z) := fun _ =>
  modifyFlagsLast_within _ _ _ _

theorem bounded_modifyFlagsLast (pl : Place) (f : Byte → Byte) (fl : Byte → Flags → Flags) :
    Bounded (modifyFlagsLast pl f fl) := fun _ => modifyFlagsLast_within _ _ _ _

theorem bounded_jump (a : Addr) : Bounded (jump a) := fun _ => Operates.setPc _ _

theorem bounded_jumpIndirect (a : Addr) : Bounded (jumpIndirect a) := fun _ =>
  (indirectTarget_within _ _).bind fun _ _ _ => done_within (.setPc _ _)

theorem bounded_jumpIndexedIndirect (a : Addr) : Bounded (jumpIndexedIndirect a) := fun _ =>
  (readPair_within _ _ _).bind fun _ _ _ => done_within (.setPc _ _)

theorem bounded_jumpSubroutine (a : Addr) : Bounded (jumpSubroutine a) := fun _ =>
  (push16_within _ _).bind fun _ _ _ => done_within (.setPc _ _)

theorem bounded_returnFromSubroutine : Bounded returnFromSubroutine := fun _ =>
  (pull16_within _).bind fun _ _ _ => done_within (.setPc _ _)

theorem bounded_returnFromInterrupt : Bounded returnFromInterrupt := fun _ =>
  (returnFromException_within _).bind fun _ _ _ => done_within (.refl _)

theorem Operates.flagBreak (s : State) : Operates s (flagBreak s) := by
  unfold Machine.flagBreak
  split
  · exact .of_registers rfl
  · exact .refl s

theorem bounded_softwareInterrupt : Bounded softwareInterrupt := fun _ =>
  (takeException_within _ _ _ _).bind fun _ _ _ => done_within (.flagBreak _)

theorem bounded_branchIf (cond : Flags → Bool) (r : Byte) : Bounded (branchIf cond r) := fun s => by
  unfold branchIf
  split
  · exact done_within (.setPc _ _)
  · exact done_within (.refl _)

theorem bounded_branchAlways (r : Byte) : Bounded (branchAlways r) := fun _ => done_within (.setPc _ _)

theorem bounded_branchOnBit (n : Nat) (want : Bool) (z r : Byte) : Bounded (branchOnBit n want z r) := fun _ =>
  (memRead_within _ _).bind fun _ _ _ => bounded_branchIf _ _ _

theorem bounded_nop : Bounded (registerOnly fun s => s) := fun _ => Operates.refl _

/-- Every instruction but WAI and STP is the frame around an operation that stays within what an instruction may do. -/
theorem exec_bounded {i : Instr} (hw : i ≠ .wai) (hs : i ≠ .stp) :
    ∃ op, Bounded op ∧ ∀ s, exec i s = instruction i op s := by
  cases i
  case txs => exact ⟨_, bounded_setReg (fun s => s.x) .sp, fun _ => rfl⟩
  case plp => exact ⟨_, bounded_pullFlags, fun _ => rfl⟩
  case bitImm v => exact ⟨_, bounded_testA testZero (.imm v), fun _ => rfl⟩
  case jmpAbs a => exact ⟨_, bounded_jump a, fun _ => rfl⟩
  case jmpInd a => exact ⟨_, bounded_jumpIndirect a, fun _ => rfl⟩
  case jmpIax a => exact ⟨_, bounded_jumpIndexedIndirect a, fun _ => rfl⟩
  case jsr a => exact ⟨_, bounded_jumpSubroutine a, fun _ => rfl⟩
  case rts => exact ⟨_, bounded_returnFromSubroutine, fun _ => rfl⟩
  case rti => exact ⟨_, bounded_returnFromInterrupt, fun _ => rfl⟩
  case brk => exact ⟨_, bounded_softwareInterrupt, fun _ => rfl⟩
  case bra r => exact ⟨_, bounded_branchAlways r, fun _ => rfl⟩
  case nop => exact ⟨_, bounded_nop, fun _ => rfl⟩
  case wai => exact absurd rfl hw
  case stp => exact absurd rfl hs
  all_goals first
    | exact ⟨_, bounded_load _ _, fun _ => exec_load rfl rfl⟩
    | exact ⟨_, bounded_storeTo _ _, fun _ => exec_store rfl rfl⟩
    | exact ⟨_, bounded_transfer _ _, fun _ => exec_transfer rfl⟩
    | exact ⟨_, bounded_push _, fun _ => exec_push rfl⟩
    | exact ⟨_, bounded_pullReg _, fun _ => exec_pull rfl⟩
    | exact ⟨_, bounded_addToA _, fun _ => exec_adc rfl rfl⟩
    | exact ⟨_, bounded_subFromA _, fun _ => exec_sbc rfl rfl⟩
    | exact ⟨_, bounded_compareReg _ _, fun _ => exec_compare rfl rfl⟩
    | exact ⟨_, bounded_logic _ _, fun _ => exec_logic rfl rfl⟩
    | exact ⟨_, bounded_testA _ _, fun _ => exec_bitMem rfl rfl⟩
    | exact ⟨_, bounded_shiftA _, fun _ => exec_shiftA rfl rfl⟩
    | exact ⟨_, bounded_shiftMem _ _, fun _ => exec_shiftMem rfl rfl⟩
    | exact ⟨_, bounded_changeReg _ _, fun _ => exec_incDecA rfl rfl⟩
    | exact ⟨_, bounded_modifyFlagsLast _ _ _, fun _ => exec_incDecMem rfl rfl⟩
    | exact ⟨_, bounded_changeReg _ _, fun _ => exec_indexStep rfl⟩
    | exact ⟨_, bounded_testAndChange _ _, fun _ => exec_testAndSet rfl rfl⟩
    | exact ⟨_, bounded_changeBits _ _, fun _ => exec_resetBit rfl rfl⟩
    | exact ⟨_, bounded_changeBits _ _, fun _ => exec_setBit rfl rfl⟩
    | exact ⟨_, bounded_branchIf _ _, fun _ => exec_branch rfl rfl⟩
    | exact ⟨_, bounded_branchOnBit _ _ _ _, fun _ => exec_bitBranch rfl rfl⟩
    | exact ⟨_, bounded_flags _, fun _ => exec_flag rfl⟩

/-- WAI always answers the next state that waits (R411). -/
theorem exec_wai (s : State) : exec .wai s =
    .next (({ s.advance .wai with waiting := true } : State).complete (Instr.baseCycles s.cfg.variant .wai)) := rfl

/-- STP always answers the halted state (R412). -/
theorem exec_stp (s : State) : exec .stp s =
    .next ((stopProcessor (s.advance .stp)).complete (Instr.baseCycles s.cfg.variant .stp)) := rfl

/-- What an instruction that answers a next state leaves alone, and what its end does (R170). -/
theorem exec_next {i : Instr} {s t : State} (hw : i ≠ .wai) (hs : i ≠ .stp) (h : exec i s = .next t) :
    ∃ u n, Operates s u ∧ t = u.complete n := by
  obtain ⟨op, hb, he⟩ := exec_bounded hw hs
  rw [he] at h
  obtain ⟨ti, u, hu, rfl⟩ := instruction_next.1 h
  have := hb (s.advance i)
  rw [hu] at this
  exact ⟨u, _, Operates.trans (.setPc _ _) this, rfl⟩

/-- An instruction stops only at an access the map takes out of the physical space (R445). -/
theorem exec_fault {i : Instr} {s : State} {r : Fault} (h : exec i s = .fault r) :
    ∃ p u, r = .outOfRange p (u.haltOutOfRange s.pc p) ∧ Operates s u ∧ s.cfg.memSize ≤ p ∧ ¬ s.cfg.mapsInRange := by
  by_cases hw : i = .wai
  · subst hw; cases h
  by_cases hs : i = .stp
  · subst hs; cases h
  obtain ⟨op, hb, he⟩ := exec_bounded hw hs
  rw [he] at h
  obtain ⟨p, u, hu, rfl⟩ := instruction_fault.1 h
  have := hb (s.advance i)
  rw [hu] at this
  exact ⟨p, u, rfl, Operates.trans (.setPc _ _) this.1, this.2⟩

/-- No instruction is refused. -/
theorem exec_not_refused (i : Instr) (s : State) (r : Refusal) : exec i s ≠ .refused r := by
  by_cases hw : i = .wai
  · subst hw; nofun
  by_cases hs : i = .stp
  · subst hs; nofun
  obtain ⟨op, _, he⟩ := exec_bounded hw hs
  rw [he]
  exact instruction_not_refused

/-- Where the map keeps every address in range, every instruction answers a next state. -/
theorem exec_completes {s : State} (h : s.cfg.mapsInRange) (i : Instr) : ∃ t, exec i s = .next t := by
  cases he : exec i s with
  | next t => exact ⟨t, rfl⟩
  | fault r =>
    obtain ⟨_, _, _, _, _, hn⟩ := exec_fault he
    exact absurd h hn
  | refused r => exact absurd he (exec_not_refused i s r)

end Sys2Proof.Machine
end

