-- ==== Sys2Proof/Laws/Engine.lean ====
section
/-! SUPPORT. What one step of the engine, a reset and a host command can do, said once each. -/

namespace Sys2Proof.Machine

open Sys2Proof

/-- What a bus read outside a data access does (R84): it gives the byte there and changes the switches alone. -/
theorem busRead_done {a : Addr} {s t : State} {v : Byte} (h : busRead a s = .done v t) :
    v = s.byteAt a ∧ t = { s with sw := t.sw } := by
  unfold busRead at h
  simp only at h
  split at h <;> cases h
  exact ⟨rfl, rfl⟩

/-- Where the map keeps every address in range, a bus read completes. -/
theorem busRead_completes {s : State} (h : s.cfg.mapsInRange) (a : Addr) :
    ∃ t, busRead a s = .done (s.byteAt a) t ∧ t = { s with sw := t.sw } := by
  unfold busRead
  simp only
  rw [if_pos (show s.phys .read a < _ from h _ _ _)]
  exact ⟨_, rfl, rfl⟩

/-- Fetching bytes changes the switches alone (R103), and on a machine without soft switches nothing. -/
theorem fetchBytes_done {a : Addr} {n : Nat} {s u : State} {bs : List Byte} (h : fetchBytes a n s = .done bs u) :
    u = { s with sw := u.sw } ∧ (s.cfg.switchDecode = [] → u = s) := by
  induction n generalizing a s bs with
  | zero => cases h; exact ⟨rfl, fun _ => rfl⟩
  | succ n ih =>
    obtain ⟨op, v, hop, h⟩ := Access.bind_eq_done.1 h
    obtain ⟨bs, w, hbs, h⟩ := Access.bind_eq_done.1 h
    cases h
    obtain ⟨h1, h2⟩ := ih hbs
    unfold fetch busRead at hop
    simp only at hop
    split at hop <;> cases hop
    refine ⟨by rw [h1], fun hs => ?_⟩
    rw [h2 hs]
    simp only [switchDecode_none hs]

/-- Fetching and decoding changes the switches alone. -/
theorem fetchInstr_done {s u : State} {r : Except DecodeError Instr} (h : fetchInstr s = .done r u) :
    u = { s with sw := u.sw } := by
  obtain ⟨op, v, hop, h⟩ := Access.bind_eq_done.1 h
  have h1 := (busRead_done hop).2
  cases hl : opcodeLength s.cfg.variant op with
  | none =>
    rw [hl] at h
    cases h
    exact h1
  | some n =>
    rw [hl] at h
    obtain ⟨bs, w, hbs, h⟩ := Access.bind_eq_done.1 h
    cases h
    have h2 := (fetchBytes_done hbs).1
    rw [h2, h1]

/-- The instruction at PC, where it answers a next state (R170): after the fetch, the invalid-opcode policy or the
instruction. -/
theorem runInstr_next {s t : State} (h : runInstr s = .next t) :
    ∃ u, u = { s with sw := u.sw } ∧ (t = invalidOpcode u ∨ ∃ i, exec i u = .next t) := by
  unfold runInstr at h
  cases hf : fetchInstr s with
  | outOfRange p u => rw [hf] at h; cases h
  | done r u =>
    rw [hf] at h
    refine ⟨u, fetchInstr_done hf, ?_⟩
    cases r with
    | error e => cases h; exact .inl rfl
    | ok i => exact .inr ⟨i, h⟩

/-- An interrupt entry, where it answers a next state (R433): the exception is taken, a wait ends, 7 cycles. -/
theorem serviceInterrupt_next {vec : Addr} {s t : State} (h : serviceInterrupt vec s = .next t) :
    ∃ u, Operates s u ∧ takeException vec s.pc false s = .done () u ∧
      t = ({ u with waiting := false } : State).complete 7 := by
  unfold serviceInterrupt enterInterrupt at h
  cases hx : takeException vec s.pc false s with
  | outOfRange p u => rw [hx] at h; cases h
  | done v u =>
    rw [hx] at h
    cases h
    exact ⟨u, takeException_operates hx, rfl, rfl⟩

/-- What `one_step` can come to (R170): a wait cycle, an interrupt entry, a pause at a PC breakpoint, or the
instruction. -/
theorem serviceBoundary_next {e irq : Bool} {s t : State} (h : serviceBoundary e irq s = .next t) :
    t = { s with tickCycles := s.tickCycles + 1 } ∨
    serviceInterrupt nmiVector { s.wake with nmiLatch := false } = .next t ∨
    serviceInterrupt irqVector s.wake = .next t ∨
    t = pauseAtBreakpoint s.wake ∨
    runInstr s.wake = .next t := by
  unfold serviceBoundary at h
  split at h
  · cases h; exact .inl rfl
  · split at h
    · exact .inr (.inl h)
    · split at h
      · exact .inr (.inr (.inl h))
      · split at h
        · cases h; exact .inr (.inr (.inr (.inl rfl)))
        · exact .inr (.inr (.inr (.inr h)))

/-- What no move of the engine changes: the configuration, the breakpoint table, a recorded fault, a pause request, the
host's script and settings; and what memory keeps. -/
structure Moves (s t : State) : Prop where
  cfg : t.cfg = s.cfg
  bpDense : t.bpDense = s.bpDense
  bpSparse : t.bpSparse = s.bpSparse
  fault : t.fault = s.fault
  pauseReq : t.pauseReq = s.pauseReq
  commands : t.commands = s.commands
  wf : Memory.wf s.cfg.initFill s.mem → Memory.wf t.cfg.initFill t.mem
  bound : (∀ c ∈ s.mem, c.1 < s.cfg.memSize) → ∀ c ∈ t.mem, c.1 < t.cfg.memSize
  /-- The controller goes on, or halts at STP, or pauses at a breakpoint, or halts at an invalid opcode. -/
  ctrl : (t.ctrl = s.ctrl ∧ t.stopped = s.stopped ∧ t.inTick = s.inTick) ∨
    (t.ctrl = .halted .stopped ∧ t.stopped = true ∧ t.inTick = s.inTick) ∨
    ((t.ctrl = .paused (some .breakpoint) ∨ t.ctrl = .halted .illegalOpcode) ∧ t.stopped = s.stopped ∧
      t.inTick = false)

theorem Moves.trans_operates {s u t : State} (h : Operates s u) (h' : Moves u t) : Moves s t := by
  have hs := h.same
  refine ⟨h'.cfg.trans h.cfg, h'.bpDense.trans (by rw [hs]), h'.bpSparse.trans (by rw [hs]),
    h'.fault.trans (by rw [hs]), h'.pauseReq.trans (by rw [hs]), h'.commands.trans (by rw [hs]),
    fun hw => h'.wf (h.cfg.symm ▸ h.wf hw), fun hb => h'.bound (h.cfg.symm ▸ h.bound hb), ?_⟩
  have e1 : u.ctrl = s.ctrl := by rw [hs]
  have e2 : u.stopped = s.stopped := by rw [hs]
  have e3 : u.inTick = s.inTick := by rw [hs]
  rw [← e1, ← e2, ← e3]
  exact h'.ctrl

/-- A state that differs in fields `Moves` says nothing about. -/
theorem Moves.of_other {s t : State}
    (h : t = { s with
      a := t.a, x := t.x, y := t.y, sp := t.sp, pc := t.pc, p := t.p, sw := t.sw, nmiLatch := t.nmiLatch
      waiting := t.waiting, pendingHalt := t.pendingHalt, skipPcBp := t.skipPcBp, tickCycles := t.tickCycles
      speed := t.speed, channel := t.channel, budget := t.budget, tickLength := t.tickLength, pins := t.pins
      events := t.events }) : Moves s t := by
  rw [h]
  exact ⟨rfl, rfl, rfl, rfl, rfl, rfl, id, id, .inl ⟨rfl, rfl, rfl⟩⟩

theorem Moves.of_operates {s t : State} (h : Operates s t) : Moves s t :=
  .trans_operates h (.of_other rfl)

theorem Moves.trans_left {s u t : State} (h : Moves s u) (hc : u.ctrl = s.ctrl) (hs : u.stopped = s.stopped)
    (hi : u.inTick = s.inTick) (h' : Moves u t) : Moves s t := by
  refine ⟨h'.cfg.trans h.cfg, h'.bpDense.trans h.bpDense, h'.bpSparse.trans h.bpSparse, h'.fault.trans h.fault,
    h'.pauseReq.trans h.pauseReq, h'.commands.trans h.commands, fun hw => h'.wf (h.wf hw),
    fun hb => h'.bound (h.bound hb), ?_⟩
  rw [← hc, ← hs, ← hi]
  exact h'.ctrl

/-- Every instruction is such a move. -/
theorem exec_moves {i : Instr} {s t : State} (h : exec i s = .next t) : Moves s t := by
  by_cases hw : i = .wai
  · subst hw
    rw [exec_wai] at h
    cases h
    exact .of_other rfl
  by_cases hs : i = .stp
  · subst hs
    rw [exec_stp] at h
    cases h
    exact ⟨rfl, rfl, rfl, rfl, rfl, rfl, id, id, .inr (.inl ⟨rfl, rfl, rfl⟩)⟩
  obtain ⟨u, n, ho, rfl⟩ := exec_next hw hs h
  exact .trans_operates ho (.of_other rfl)

theorem runInstr_moves {s t : State} (h : runInstr s = .next t) : Moves s t := by
  obtain ⟨u, hu, h | ⟨i, h⟩⟩ := runInstr_next h
  · have hm : Moves s u := by
      rw [hu]
      exact .of_other rfl
    refine hm.trans_left (by rw [hu]) (by rw [hu]) (by rw [hu]) ?_
    subst h
    unfold invalidOpcode
    split
    · exact ⟨rfl, rfl, rfl, rfl, rfl, rfl, id, id, .inr (.inr ⟨.inr rfl, rfl, rfl⟩)⟩
    · exact .of_other rfl
  · have hm : Moves s u := by
      rw [hu]
      exact .of_other rfl
    exact hm.trans_left (by rw [hu]) (by rw [hu]) (by rw [hu]) (exec_moves h)

theorem serviceInterrupt_moves {vec : Addr} {s t : State} (h : serviceInterrupt vec s = .next t) : Moves s t := by
  obtain ⟨u, ho, _, rfl⟩ := serviceInterrupt_next h
  exact .trans_operates ho (.of_other rfl)

/-- `one_step` is such a move. -/
theorem oneStep_moves {e : Bool} {s t : State} (h : oneStep e s = .next t) : Moves s t := by
  have hp : Moves s s.samplePins := .of_other rfl
  refine hp.trans_left rfl rfl rfl ?_
  have hw : Moves s.samplePins s.samplePins.wake := .of_other rfl
  rcases serviceBoundary_next h with rfl | h | h | rfl | h
  · exact .of_other rfl
  · exact Moves.trans_left (u := { s.samplePins.wake with nmiLatch := false }) (.of_other rfl) rfl rfl rfl
      (serviceInterrupt_moves h)
  · exact hw.trans_left rfl rfl rfl (serviceInterrupt_moves h)
  · exact hw.trans_left rfl rfl rfl
      ⟨rfl, rfl, rfl, rfl, rfl, rfl, id, id, .inr (.inr ⟨.inl rfl, rfl, rfl⟩)⟩
  · exact hw.trans_left rfl rfl rfl (runInstr_moves h)

/-- The step command in Paused (R490): one `one_step` that counts from 0, closed whatever it comes to. -/
theorem hostStep_paused {s : State} {r : Option PauseReason} (h : s.ctrl = .paused r) :
    hostStep s = closeOutcome (oneStep false { s with tickCycles := 0 }) := by
  unfold hostStep
  split
  · rfl
  all_goals
    rename_i hr
    rw [h] at hr
    cases hr

/-- The step command elsewhere: no effect (R485). -/
theorem hostStep_not_paused {s : State} (h : ∀ r, s.ctrl ≠ .paused r) : hostStep s = .next s := by
  unfold hostStep
  split
  · rename_i r hr
    exact absurd hr (h r)
  all_goals rfl

theorem closeOutcome_next {x : Host.Outcome State Fault Refusal} {t : State} (h : closeOutcome x = .next t) :
    ∃ u, x = .next u ∧ t = closeStep u := by
  rcases x with u | ⟨p, u⟩ | r <;> cases h
  exact ⟨u, rfl, rfl⟩

theorem closeOutcome_fault {x : Host.Outcome State Fault Refusal} {r : Fault} (h : closeOutcome x = .fault r) :
    ∃ p u, x = .fault (.outOfRange p u) ∧ r = .outOfRange p (closeStep u) := by
  rcases x with u | ⟨p, u⟩ | r' <;> cases h
  exact ⟨p, u, rfl, rfl⟩

/-- What the step command can come to (R490): one `one_step` from Paused, nothing otherwise. -/
theorem hostStep_next {s t : State} (h : hostStep s = .next t) :
    (t = s ∧ ∀ r, s.ctrl ≠ .paused r) ∨
      ∃ r u, s.ctrl = .paused r ∧ oneStep false { s with tickCycles := 0 } = .next u ∧ t = closeStep u := by
  by_cases hp : ∃ r, s.ctrl = .paused r
  · obtain ⟨r, hr⟩ := hp
    rw [hostStep_paused hr] at h
    obtain ⟨u, hu, rfl⟩ := closeOutcome_next h
    exact .inr ⟨r, u, hr, hu, rfl⟩
  · have hn := not_exists.1 hp
    rw [hostStep_not_paused hn] at h
    cases h
    exact .inl ⟨rfl, hn⟩

/-- A Halted state is closed by a publication and the end of the tick alone (R490). -/
theorem closeStep_halted {s : State} {r : HaltReason} (h : s.ctrl = .halted r) :
    closeStep s = s.publish.emit (.tickCompleted s.tickCycles) := by
  unfold closeStep
  rw [h]

/-- Memory after reset has the canonical form and lies below `MEM_SIZE`. -/
theorem reset_mem_wf : Memory.wf State.reset.cfg.initFill State.reset.mem ∧
    ∀ c ∈ State.reset.mem, c.1 < State.reset.cfg.memSize := ⟨⟨.nil, nofun⟩, nofun⟩

/-- What the reset sequence does where its vector reads are in range (R520 to R523). -/
theorem reset_next {cold : Bool} {s t : State} (h : reset cold s = .next t) :
    ∃ (u : State) (target : Addr), u = { (if cold then s.loadDefaults else s).clearRun with sw := u.sw } ∧
      t = ({ u.setPc target with ctrl := .paused none } : State).publish := by
  unfold reset resetSequence readResetVector at h
  cases h1 : busRead resetVector (if cold then s.loadDefaults else s).clearRun with
  | outOfRange p u => rw [h1] at h; cases h
  | done l u =>
    rw [h1] at h
    simp only [Access.bind_done] at h
    cases h2 : busRead (resetVector + 1) u with
    | outOfRange p w => rw [h2] at h; cases h
    | done g w =>
      rw [h2] at h
      simp only [Access.bind_done] at h
      cases h
      refine ⟨w, word16 g l, ?_, rfl⟩
      have e1 := (busRead_done h1).2
      have e2 := (busRead_done h2).2
      rw [e2, e1]

/-- What `init` does where it answers a next state (R525): nothing for a rejected configuration, else the loaded machine
after a cold reset, Stopped. -/
theorem init_next {cfg : Config} {s t : State} (h : init cfg s = .next t) :
    (loadChunks cfg cfg.chunks [] = none ∧ t = s) ∨
      ∃ m r, loadChunks cfg cfg.chunks [] = some m ∧ reset true (freshMachine cfg m s) = .next r ∧
        t = { r with ctrl := .stopped } := by
  unfold init at h
  cases hl : loadChunks cfg cfg.chunks [] with
  | none => rw [hl] at h; cases h; exact .inl ⟨rfl, rfl⟩
  | some m =>
    rw [hl] at h
    simp only at h
    cases hr : resetSequence true (freshMachine cfg m s) with
    | outOfRange p u => rw [hr] at h; cases h
    | done v u =>
      rw [hr] at h
      cases h
      exact .inr ⟨m, u, rfl, by unfold reset; rw [hr]; rfl, rfl⟩

/-- Loaded memory is canonical and inside the physical space (R525). -/
theorem loadChunks_spec {cfg : Config} {cs : List Chunk} {m m' : List Host.Cell} (h : loadChunks cfg cs m = some m')
    (hw : Memory.wf cfg.initFill m) (hb : ∀ c ∈ m, c.1 < cfg.memSize) :
    Memory.wf cfg.initFill m' ∧ ∀ c ∈ m', c.1 < cfg.memSize := by
  induction cs generalizing m with
  | nil => cases h; exact ⟨hw, hb⟩
  | cons c cs ih =>
    unfold loadChunks at h
    cases hp : placeChunk cfg c with
    | none => rw [hp] at h; cases h
    | some r =>
      obtain ⟨p, bs⟩ := r
      rw [hp] at h
      simp only at h
      refine ih h (Memory.writeAll_wf hw _ _) fun d hd => ?_
      rcases Memory.mem_writeAll hd with hd | hd
      · exact hb d hd
      · have hr : bs = [] ∨ p + bs.length ≤ cfg.memSize := by
          unfold placeChunk at hp
          cases hq : payloadBytes c.payload with
          | none => rw [hq] at hp; cases hp
          | some q =>
            rw [hq] at hp
            simp only at hp
            split at hp
            · rename_i hc
              cases hp
              exact hc.2
            · cases hp
        rcases hr with rfl | hr
        · simp at hd
          omega
        · omega

end Sys2Proof.Machine
end

