-- ==== Sys2Proof/Laws/Init.lean ====
section
/-! SUPPORT. Chunks of a configuration: what a payload holds and when a chunk is accepted (R525), in the terms of the
statements. -/

namespace Sys2Proof.Machine

/-- The value of a hexadecimal digit (D7). -/
theorem hexValue_of_digit {c : Char} {n : Nat} (h : hexDigitIs c n) : hexValue c = some n := by
  have hn : n < 16 := by
    rcases h with h | h <;> exact (List.getElem?_eq_some_iff.1 h).1
  unfold hexDigitIs at h
  interval_cases n <;> rcases h with h | h <;> cases h <;> decide

theorem digit_of_hexValue {c : Char} {n : Nat} (h : hexValue c = some n) : hexDigitIs c n := by
  unfold hexValue at h
  have hc : Char.ofNat c.toNat = c := Char.ofNat_toNat c
  simp only at h
  generalize c.toNat = k at h hc
  subst hc
  split at h
  · rename_i hk
    cases h
    obtain ⟨h1, h2⟩ := hk
    interval_cases k <;> exact .inl rfl
  · split at h
    · rename_i hk
      cases h
      obtain ⟨h1, h2⟩ := hk
      interval_cases k <;> exact .inl rfl
    · split at h
      · rename_i hk
        cases h
        obtain ⟨h1, h2⟩ := hk
        interval_cases k <;> exact .inr rfl
      · cases h

/-- The decoder of a hex payload gives exactly the bytes its digits spell (R525). -/
theorem hexBytes_iff (digits : List Char) (bytes : List Byte) :
    hexBytes digits = some bytes ↔ hexSpells digits bytes := by
  induction digits using hexBytes.induct generalizing bytes with
  | case1 => simp [hexSpells, hexBytes, eq_comm]
  | case2 => simp [hexSpells, hexBytes]
  | case3 c d rest h l bs hr hd hc ih =>
    simp only [hexSpells, hexBytes, hc, hd, hr, Option.some.injEq]
    constructor
    · rintro rfl
      exact ⟨h, l, bs, digit_of_hexValue hc, digit_of_hexValue hd, (ih bs).1 hr, rfl⟩
    · rintro ⟨h', l', bs', h1, h2, h3, rfl⟩
      cases hc.symm.trans (hexValue_of_digit h1)
      cases hd.symm.trans (hexValue_of_digit h2)
      cases hr.symm.trans ((ih bs').2 h3)
      rfl
  | case4 c d rest hno ih =>
    constructor
    · intro h
      unfold hexBytes at h
      split at h
      · rename_i ha hb hr
        exact absurd hr (hno _ _ _ ha hb)
      · cases h
    · rintro ⟨h, l, bs, h1, h2, h3, rfl⟩
      exact absurd ((ih bs).2 h3) (hno _ _ _ (hexValue_of_digit h1) (hexValue_of_digit h2))

/-- A payload's bytes (R525). -/
theorem payloadBytes_iff (p : Payload) (bytes : List Byte) : payloadBytes p = some bytes ↔ p.holds bytes := by
  cases p with
  | bytes content => simp [payloadBytes, Payload.holds, eq_comm]
  | hex digits => exact hexBytes_iff digits bytes

/-- Where a chunk goes (R525, D7). -/
theorem chunk_start (cfg : Config) (c : Chunk) : c.start cfg = bankBaseOf cfg c.bank + c.addr.toNat := by
  unfold Chunk.start bankBaseOf
  cases cfg.bankBase[c.bank]? <;> rfl

/-- A chunk is placed at its start with its bytes exactly where it is accepted with them (R525). -/
theorem placeChunk_iff (cfg : Config) (c : Chunk) (p : Nat) (bytes : List Byte) :
    placeChunk cfg c = some (p, bytes) ↔ p = c.start cfg ∧ c.accepted cfg bytes := by
  unfold placeChunk Chunk.accepted
  rw [← payloadBytes_iff, chunk_start]
  cases payloadBytes c.payload with
  | none => simp
  | some bs =>
    simp only [Option.some.injEq]
    constructor
    · intro h
      split at h
      · rename_i hc
        cases h
        refine ⟨rfl, hc.1, rfl, fun k hk => ?_⟩
        rcases hc.2 with rfl | hl
        · exact absurd hk (Nat.not_lt_zero k)
        · omega
      · cases h
    · rintro ⟨rfl, hb, rfl, hl⟩
      rw [if_pos]
      refine ⟨hb, ?_⟩
      cases bs with
      | nil => exact .inl rfl
      | cons b bs =>
        have := hl bs.length (by simp)
        exact .inr (by simp; omega)

end Sys2Proof.Machine
end

