-- ==== Sys2Proof/Laws/PerInstr.lean ====
section
/-! SUPPORT. One family of statements about each instruction as syntax: its row of the opcode map. -/

namespace Sys2Proof.Laws.TableRow

open Sys2Proof

/-- The instruction's row (R130, R131, R140): the opcode map has a form at its opcode byte, of the instruction's own
descriptor; its operand is of the row's mode and takes the row's bytes; and the form builds the instruction from its
operand bytes, whatever follows them. -/
def Statement (i : Instr) : Prop :=
  ∃ f : Form, opcodeForm i.opcode = some f ∧ f.sample.desc = i.desc ∧ i.operand.mode = i.desc.mode ∧
    i.operand.bytes.length + 1 = i.length ∧
    ∀ rest, f.build (i.operand.bytes ++ rest) = some (i, rest)

theorem brk : Statement .brk :=
  ⟨.plain .brk, (rfl : opcodeForm 0x00 = _), rfl, rfl, rfl, fun _ => rfl⟩

theorem oraIzx (z : Byte) : Statement (.oraIzx z) :=
  ⟨.byte .oraIzx, (rfl : opcodeForm 0x01 = _), rfl, rfl, rfl, fun _ => rfl⟩

theorem tsbZp (z : Byte) : Statement (.tsbZp z) :=
  ⟨.byte .tsbZp, (rfl : opcodeForm 0x04 = _), rfl, rfl, rfl, fun _ => rfl⟩

theorem oraZp (z : Byte) : Statement (.oraZp z) :=
  ⟨.byte .oraZp, (rfl : opcodeForm 0x05 = _), rfl, rfl, rfl, fun _ => rfl⟩

theorem aslZp (z : Byte) : Statement (.aslZp z) :=
  ⟨.byte .aslZp, (rfl : opcodeForm 0x06 = _), rfl, rfl, rfl, fun _ => rfl⟩

theorem rmb0 (z : Byte) : Statement (.rmb0 z) :=
  ⟨.byte .rmb0, (rfl : opcodeForm 0x07 = _), rfl, rfl, rfl, fun _ => rfl⟩

theorem php : Statement .php :=
  ⟨.plain .php, (rfl : opcodeForm 0x08 = _), rfl, rfl, rfl, fun _ => rfl⟩

theorem oraImm (v : Byte) : Statement (.oraImm v) :=
  ⟨.byte .oraImm, (rfl : opcodeForm 0x09 = _), rfl, rfl, rfl, fun _ => rfl⟩

theorem aslAcc : Statement .aslAcc :=
  ⟨.plain .aslAcc, (rfl : opcodeForm 0x0A = _), rfl, rfl, rfl, fun _ => rfl⟩

theorem tsbAbs (addr : Addr) : Statement (.tsbAbs addr) :=
  ⟨.word .tsbAbs, (rfl : opcodeForm 0x0C = _), rfl, rfl, rfl,
    fun rest => congrArg (fun a => some (Instr.tsbAbs a, rest)) (word16_hi_lo addr)⟩

theorem oraAbs (addr : Addr) : Statement (.oraAbs addr) :=
  ⟨.word .oraAbs, (rfl : opcodeForm 0x0D = _), rfl, rfl, rfl,
    fun rest => congrArg (fun a => some (Instr.oraAbs a, rest)) (word16_hi_lo addr)⟩

theorem aslAbs (addr : Addr) : Statement (.aslAbs addr) :=
  ⟨.word .aslAbs, (rfl : opcodeForm 0x0E = _), rfl, rfl, rfl,
    fun rest => congrArg (fun a => some (Instr.aslAbs a, rest)) (word16_hi_lo addr)⟩

theorem bbr0 (z : Byte) (r : Byte) : Statement (.bbr0 z r) :=
  ⟨.zpr .bbr0, (rfl : opcodeForm 0x0F = _), rfl, rfl, rfl, fun _ => rfl⟩

theorem bpl (r : Byte) : Statement (.bpl r) :=
  ⟨.byte .bpl, (rfl : opcodeForm 0x10 = _), rfl, rfl, rfl, fun _ => rfl⟩

theorem oraIzy (z : Byte) : Statement (.oraIzy z) :=
  ⟨.byte .oraIzy, (rfl : opcodeForm 0x11 = _), rfl, rfl, rfl, fun _ => rfl⟩

theorem oraIzp (z : Byte) : Statement (.oraIzp z) :=
  ⟨.byte .oraIzp, (rfl : opcodeForm 0x12 = _), rfl, rfl, rfl, fun _ => rfl⟩

theorem trbZp (z : Byte) : Statement (.trbZp z) :=
  ⟨.byte .trbZp, (rfl : opcodeForm 0x14 = _), rfl, rfl, rfl, fun _ => rfl⟩

theorem oraZpx (z : Byte) : Statement (.oraZpx z) :=
  ⟨.byte .oraZpx, (rfl : opcodeForm 0x15 = _), rfl, rfl, rfl, fun _ => rfl⟩

theorem aslZpx (z : Byte) : Statement (.aslZpx z) :=
  ⟨.byte .aslZpx, (rfl : opcodeForm 0x16 = _), rfl, rfl, rfl, fun _ => rfl⟩

theorem rmb1 (z : Byte) : Statement (.rmb1 z) :=
  ⟨.byte .rmb1, (rfl : opcodeForm 0x17 = _), rfl, rfl, rfl, fun _ => rfl⟩

theorem clc : Statement .clc :=
  ⟨.plain .clc, (rfl : opcodeForm 0x18 = _), rfl, rfl, rfl, fun _ => rfl⟩

theorem oraAby (addr : Addr) : Statement (.oraAby addr) :=
  ⟨.word .oraAby, (rfl : opcodeForm 0x19 = _), rfl, rfl, rfl,
    fun rest => congrArg (fun a => some (Instr.oraAby a, rest)) (word16_hi_lo addr)⟩

theorem incAcc : Statement .incAcc :=
  ⟨.plain .incAcc, (rfl : opcodeForm 0x1A = _), rfl, rfl, rfl, fun _ => rfl⟩

theorem trbAbs (addr : Addr) : Statement (.trbAbs addr) :=
  ⟨.word .trbAbs, (rfl : opcodeForm 0x1C = _), rfl, rfl, rfl,
    fun rest => congrArg (fun a => some (Instr.trbAbs a, rest)) (word16_hi_lo addr)⟩

theorem oraAbx (addr : Addr) : Statement (.oraAbx addr) :=
  ⟨.word .oraAbx, (rfl : opcodeForm 0x1D = _), rfl, rfl, rfl,
    fun rest => congrArg (fun a => some (Instr.oraAbx a, rest)) (word16_hi_lo addr)⟩

theorem aslAbx (addr : Addr) : Statement (.aslAbx addr) :=
  ⟨.word .aslAbx, (rfl : opcodeForm 0x1E = _), rfl, rfl, rfl,
    fun rest => congrArg (fun a => some (Instr.aslAbx a, rest)) (word16_hi_lo addr)⟩

theorem bbr1 (z : Byte) (r : Byte) : Statement (.bbr1 z r) :=
  ⟨.zpr .bbr1, (rfl : opcodeForm 0x1F = _), rfl, rfl, rfl, fun _ => rfl⟩

theorem jsr (addr : Addr) : Statement (.jsr addr) :=
  ⟨.word .jsr, (rfl : opcodeForm 0x20 = _), rfl, rfl, rfl,
    fun rest => congrArg (fun a => some (Instr.jsr a, rest)) (word16_hi_lo addr)⟩

theorem andIzx (z : Byte) : Statement (.andIzx z) :=
  ⟨.byte .andIzx, (rfl : opcodeForm 0x21 = _), rfl, rfl, rfl, fun _ => rfl⟩

theorem bitZp (z : Byte) : Statement (.bitZp z) :=
  ⟨.byte .bitZp, (rfl : opcodeForm 0x24 = _), rfl, rfl, rfl, fun _ => rfl⟩

theorem andZp (z : Byte) : Statement (.andZp z) :=
  ⟨.byte .andZp, (rfl : opcodeForm 0x25 = _), rfl, rfl, rfl, fun _ => rfl⟩

theorem rolZp (z : Byte) : Statement (.rolZp z) :=
  ⟨.byte .rolZp, (rfl : opcodeForm 0x26 = _), rfl, rfl, rfl, fun _ => rfl⟩

theorem rmb2 (z : Byte) : Statement (.rmb2 z) :=
  ⟨.byte .rmb2, (rfl : opcodeForm 0x27 = _), rfl, rfl, rfl, fun _ => rfl⟩

theorem plp : Statement .plp :=
  ⟨.plain .plp, (rfl : opcodeForm 0x28 = _), rfl, rfl, rfl, fun _ => rfl⟩

theorem andImm (v : Byte) : Statement (.andImm v) :=
  ⟨.byte .andImm, (rfl : opcodeForm 0x29 = _), rfl, rfl, rfl, fun _ => rfl⟩

theorem rolAcc : Statement .rolAcc :=
  ⟨.plain .rolAcc, (rfl : opcodeForm 0x2A = _), rfl, rfl, rfl, fun _ => rfl⟩

theorem bitAbs (addr : Addr) : Statement (.bitAbs addr) :=
  ⟨.word .bitAbs, (rfl : opcodeForm 0x2C = _), rfl, rfl, rfl,
    fun rest => congrArg (fun a => some (Instr.bitAbs a, rest)) (word16_hi_lo addr)⟩

theorem andAbs (addr : Addr) : Statement (.andAbs addr) :=
  ⟨.word .andAbs, (rfl : opcodeForm 0x2D = _), rfl, rfl, rfl,
    fun rest => congrArg (fun a => some (Instr.andAbs a, rest)) (word16_hi_lo addr)⟩

theorem rolAbs (addr : Addr) : Statement (.rolAbs addr) :=
  ⟨.word .rolAbs, (rfl : opcodeForm 0x2E = _), rfl, rfl, rfl,
    fun rest => congrArg (fun a => some (Instr.rolAbs a, rest)) (word16_hi_lo addr)⟩

theorem bbr2 (z : Byte) (r : Byte) : Statement (.bbr2 z r) :=
  ⟨.zpr .bbr2, (rfl : opcodeForm 0x2F = _), rfl, rfl, rfl, fun _ => rfl⟩

theorem bmi (r : Byte) : Statement (.bmi r) :=
  ⟨.byte .bmi, (rfl : opcodeForm 0x30 = _), rfl, rfl, rfl, fun _ => rfl⟩

theorem andIzy (z : Byte) : Statement (.andIzy z) :=
  ⟨.byte .andIzy, (rfl : opcodeForm 0x31 = _), rfl, rfl, rfl, fun _ => rfl⟩

theorem andIzp (z : Byte) : Statement (.andIzp z) :=
  ⟨.byte .andIzp, (rfl : opcodeForm 0x32 = _), rfl, rfl, rfl, fun _ => rfl⟩

theorem bitZpx (z : Byte) : Statement (.bitZpx z) :=
  ⟨.byte .bitZpx, (rfl : opcodeForm 0x34 = _), rfl, rfl, rfl, fun _ => rfl⟩

theorem andZpx (z : Byte) : Statement (.andZpx z) :=
  ⟨.byte .andZpx, (rfl : opcodeForm 0x35 = _), rfl, rfl, rfl, fun _ => rfl⟩

theorem rolZpx (z : Byte) : Statement (.rolZpx z) :=
  ⟨.byte .rolZpx, (rfl : opcodeForm 0x36 = _), rfl, rfl, rfl, fun _ => rfl⟩

theorem rmb3 (z : Byte) : Statement (.rmb3 z) :=
  ⟨.byte .rmb3, (rfl : opcodeForm 0x37 = _), rfl, rfl, rfl, fun _ => rfl⟩

theorem sec : Statement .sec :=
  ⟨.plain .sec, (rfl : opcodeForm 0x38 = _), rfl, rfl, rfl, fun _ => rfl⟩

theorem andAby (addr : Addr) : Statement (.andAby addr) :=
  ⟨.word .andAby, (rfl : opcodeForm 0x39 = _), rfl, rfl, rfl,
    fun rest => congrArg (fun a => some (Instr.andAby a, rest)) (word16_hi_lo addr)⟩

theorem decAcc : Statement .decAcc :=
  ⟨.plain .decAcc, (rfl : opcodeForm 0x3A = _), rfl, rfl, rfl, fun _ => rfl⟩

theorem bitAbx (addr : Addr) : Statement (.bitAbx addr) :=
  ⟨.word .bitAbx, (rfl : opcodeForm 0x3C = _), rfl, rfl, rfl,
    fun rest => congrArg (fun a => some (Instr.bitAbx a, rest)) (word16_hi_lo addr)⟩

theorem andAbx (addr : Addr) : Statement (.andAbx addr) :=
  ⟨.word .andAbx, (rfl : opcodeForm 0x3D = _), rfl, rfl, rfl,
    fun rest => congrArg (fun a => some (Instr.andAbx a, rest)) (word16_hi_lo addr)⟩

theorem rolAbx (addr : Addr) : Statement (.rolAbx addr) :=
  ⟨.word .rolAbx, (rfl : opcodeForm 0x3E = _), rfl, rfl, rfl,
    fun rest => congrArg (fun a => some (Instr.rolAbx a, rest)) (word16_hi_lo addr)⟩

theorem bbr3 (z : Byte) (r : Byte) : Statement (.bbr3 z r) :=
  ⟨.zpr .bbr3, (rfl : opcodeForm 0x3F = _), rfl, rfl, rfl, fun _ => rfl⟩

theorem rti : Statement .rti :=
  ⟨.plain .rti, (rfl : opcodeForm 0x40 = _), rfl, rfl, rfl, fun _ => rfl⟩

theorem eorIzx (z : Byte) : Statement (.eorIzx z) :=
  ⟨.byte .eorIzx, (rfl : opcodeForm 0x41 = _), rfl, rfl, rfl, fun _ => rfl⟩

theorem eorZp (z : Byte) : Statement (.eorZp z) :=
  ⟨.byte .eorZp, (rfl : opcodeForm 0x45 = _), rfl, rfl, rfl, fun _ => rfl⟩

theorem lsrZp (z : Byte) : Statement (.lsrZp z) :=
  ⟨.byte .lsrZp, (rfl : opcodeForm 0x46 = _), rfl, rfl, rfl, fun _ => rfl⟩

theorem rmb4 (z : Byte) : Statement (.rmb4 z) :=
  ⟨.byte .rmb4, (rfl : opcodeForm 0x47 = _), rfl, rfl, rfl, fun _ => rfl⟩

theorem pha : Statement .pha :=
  ⟨.plain .pha, (rfl : opcodeForm 0x48 = _), rfl, rfl, rfl, fun _ => rfl⟩

theorem eorImm (v : Byte) : Statement (.eorImm v) :=
  ⟨.byte .eorImm, (rfl : opcodeForm 0x49 = _), rfl, rfl, rfl, fun _ => rfl⟩

theorem lsrAcc : Statement .lsrAcc :=
  ⟨.plain .lsrAcc, (rfl : opcodeForm 0x4A = _), rfl, rfl, rfl, fun _ => rfl⟩

theorem jmpAbs (addr : Addr) : Statement (.jmpAbs addr) :=
  ⟨.word .jmpAbs, (rfl : opcodeForm 0x4C = _), rfl, rfl, rfl,
    fun rest => congrArg (fun a => some (Instr.jmpAbs a, rest)) (word16_hi_lo addr)⟩

theorem eorAbs (addr : Addr) : Statement (.eorAbs addr) :=
  ⟨.word .eorAbs, (rfl : opcodeForm 0x4D = _), rfl, rfl, rfl,
    fun rest => congrArg (fun a => some (Instr.eorAbs a, rest)) (word16_hi_lo addr)⟩

theorem lsrAbs (addr : Addr) : Statement (.lsrAbs addr) :=
  ⟨.word .lsrAbs, (rfl : opcodeForm 0x4E = _), rfl, rfl, rfl,
    fun rest => congrArg (fun a => some (Instr.lsrAbs a, rest)) (word16_hi_lo addr)⟩

theorem bbr4 (z : Byte) (r : Byte) : Statement (.bbr4 z r) :=
  ⟨.zpr .bbr4, (rfl : opcodeForm 0x4F = _), rfl, rfl, rfl, fun _ => rfl⟩

theorem bvc (r : Byte) : Statement (.bvc r) :=
  ⟨.byte .bvc, (rfl : opcodeForm 0x50 = _), rfl, rfl, rfl, fun _ => rfl⟩

theorem eorIzy (z : Byte) : Statement (.eorIzy z) :=
  ⟨.byte .eorIzy, (rfl : opcodeForm 0x51 = _), rfl, rfl, rfl, fun _ => rfl⟩

theorem eorIzp (z : Byte) : Statement (.eorIzp z) :=
  ⟨.byte .eorIzp, (rfl : opcodeForm 0x52 = _), rfl, rfl, rfl, fun _ => rfl⟩

theorem eorZpx (z : Byte) : Statement (.eorZpx z) :=
  ⟨.byte .eorZpx, (rfl : opcodeForm 0x55 = _), rfl, rfl, rfl, fun _ => rfl⟩

theorem lsrZpx (z : Byte) : Statement (.lsrZpx z) :=
  ⟨.byte .lsrZpx, (rfl : opcodeForm 0x56 = _), rfl, rfl, rfl, fun _ => rfl⟩

theorem rmb5 (z : Byte) : Statement (.rmb5 z) :=
  ⟨.byte .rmb5, (rfl : opcodeForm 0x57 = _), rfl, rfl, rfl, fun _ => rfl⟩

theorem cli : Statement .cli :=
  ⟨.plain .cli, (rfl : opcodeForm 0x58 = _), rfl, rfl, rfl, fun _ => rfl⟩

theorem eorAby (addr : Addr) : Statement (.eorAby addr) :=
  ⟨.word .eorAby, (rfl : opcodeForm 0x59 = _), rfl, rfl, rfl,
    fun rest => congrArg (fun a => some (Instr.eorAby a, rest)) (word16_hi_lo addr)⟩

theorem phy : Statement .phy :=
  ⟨.plain .phy, (rfl : opcodeForm 0x5A = _), rfl, rfl, rfl, fun _ => rfl⟩

theorem eorAbx (addr : Addr) : Statement (.eorAbx addr) :=
  ⟨.word .eorAbx, (rfl : opcodeForm 0x5D = _), rfl, rfl, rfl,
    fun rest => congrArg (fun a => some (Instr.eorAbx a, rest)) (word16_hi_lo addr)⟩

theorem lsrAbx (addr : Addr) : Statement (.lsrAbx addr) :=
  ⟨.word .lsrAbx, (rfl : opcodeForm 0x5E = _), rfl, rfl, rfl,
    fun rest => congrArg (fun a => some (Instr.lsrAbx a, rest)) (word16_hi_lo addr)⟩

theorem bbr5 (z : Byte) (r : Byte) : Statement (.bbr5 z r) :=
  ⟨.zpr .bbr5, (rfl : opcodeForm 0x5F = _), rfl, rfl, rfl, fun _ => rfl⟩

theorem rts : Statement .rts :=
  ⟨.plain .rts, (rfl : opcodeForm 0x60 = _), rfl, rfl, rfl, fun _ => rfl⟩

theorem adcIzx (z : Byte) : Statement (.adcIzx z) :=
  ⟨.byte .adcIzx, (rfl : opcodeForm 0x61 = _), rfl, rfl, rfl, fun _ => rfl⟩

theorem stzZp (z : Byte) : Statement (.stzZp z) :=
  ⟨.byte .stzZp, (rfl : opcodeForm 0x64 = _), rfl, rfl, rfl, fun _ => rfl⟩

theorem adcZp (z : Byte) : Statement (.adcZp z) :=
  ⟨.byte .adcZp, (rfl : opcodeForm 0x65 = _), rfl, rfl, rfl, fun _ => rfl⟩

theorem rorZp (z : Byte) : Statement (.rorZp z) :=
  ⟨.byte .rorZp, (rfl : opcodeForm 0x66 = _), rfl, rfl, rfl, fun _ => rfl⟩

theorem rmb6 (z : Byte) : Statement (.rmb6 z) :=
  ⟨.byte .rmb6, (rfl : opcodeForm 0x67 = _), rfl, rfl, rfl, fun _ => rfl⟩

theorem pla : Statement .pla :=
  ⟨.plain .pla, (rfl : opcodeForm 0x68 = _), rfl, rfl, rfl, fun _ => rfl⟩

theorem adcImm (v : Byte) : Statement (.adcImm v) :=
  ⟨.byte .adcImm, (rfl : opcodeForm 0x69 = _), rfl, rfl, rfl, fun _ => rfl⟩

theorem rorAcc : Statement .rorAcc :=
  ⟨.plain .rorAcc, (rfl : opcodeForm 0x6A = _), rfl, rfl, rfl, fun _ => rfl⟩

theorem jmpInd (addr : Addr) : Statement (.jmpInd addr) :=
  ⟨.word .jmpInd, (rfl : opcodeForm 0x6C = _), rfl, rfl, rfl,
    fun rest => congrArg (fun a => some (Instr.jmpInd a, rest)) (word16_hi_lo addr)⟩

theorem adcAbs (addr : Addr) : Statement (.adcAbs addr) :=
  ⟨.word .adcAbs, (rfl : opcodeForm 0x6D = _), rfl, rfl, rfl,
    fun rest => congrArg (fun a => some (Instr.adcAbs a, rest)) (word16_hi_lo addr)⟩

theorem rorAbs (addr : Addr) : Statement (.rorAbs addr) :=
  ⟨.word .rorAbs, (rfl : opcodeForm 0x6E = _), rfl, rfl, rfl,
    fun rest => congrArg (fun a => some (Instr.rorAbs a, rest)) (word16_hi_lo addr)⟩

theorem bbr6 (z : Byte) (r : Byte) : Statement (.bbr6 z r) :=
  ⟨.zpr .bbr6, (rfl : opcodeForm 0x6F = _), rfl, rfl, rfl, fun _ => rfl⟩

theorem bvs (r : Byte) : Statement (.bvs r) :=
  ⟨.byte .bvs, (rfl : opcodeForm 0x70 = _), rfl, rfl, rfl, fun _ => rfl⟩

theorem adcIzy (z : Byte) : Statement (.adcIzy z) :=
  ⟨.byte .adcIzy, (rfl : opcodeForm 0x71 = _), rfl, rfl, rfl, fun _ => rfl⟩

theorem adcIzp (z : Byte) : Statement (.adcIzp z) :=
  ⟨.byte .adcIzp, (rfl : opcodeForm 0x72 = _), rfl, rfl, rfl, fun _ => rfl⟩

theorem stzZpx (z : Byte) : Statement (.stzZpx z) :=
  ⟨.byte .stzZpx, (rfl : opcodeForm 0x74 = _), rfl, rfl, rfl, fun _ => rfl⟩

theorem adcZpx (z : Byte) : Statement (.adcZpx z) :=
  ⟨.byte .adcZpx, (rfl : opcodeForm 0x75 = _), rfl, rfl, rfl, fun _ => rfl⟩

theorem rorZpx (z : Byte) : Statement (.rorZpx z) :=
  ⟨.byte .rorZpx, (rfl : opcodeForm 0x76 = _), rfl, rfl, rfl, fun _ => rfl⟩

theorem rmb7 (z : Byte) : Statement (.rmb7 z) :=
  ⟨.byte .rmb7, (rfl : opcodeForm 0x77 = _), rfl, rfl, rfl, fun _ => rfl⟩

theorem sei : Statement .sei :=
  ⟨.plain .sei, (rfl : opcodeForm 0x78 = _), rfl, rfl, rfl, fun _ => rfl⟩

theorem adcAby (addr : Addr) : Statement (.adcAby addr) :=
  ⟨.word .adcAby, (rfl : opcodeForm 0x79 = _), rfl, rfl, rfl,
    fun rest => congrArg (fun a => some (Instr.adcAby a, rest)) (word16_hi_lo addr)⟩

theorem ply : Statement .ply :=
  ⟨.plain .ply, (rfl : opcodeForm 0x7A = _), rfl, rfl, rfl, fun _ => rfl⟩

theorem jmpIax (addr : Addr) : Statement (.jmpIax addr) :=
  ⟨.word .jmpIax, (rfl : opcodeForm 0x7C = _), rfl, rfl, rfl,
    fun rest => congrArg (fun a => some (Instr.jmpIax a, rest)) (word16_hi_lo addr)⟩

theorem adcAbx (addr : Addr) : Statement (.adcAbx addr) :=
  ⟨.word .adcAbx, (rfl : opcodeForm 0x7D = _), rfl, rfl, rfl,
    fun rest => congrArg (fun a => some (Instr.adcAbx a, rest)) (word16_hi_lo addr)⟩

theorem rorAbx (addr : Addr) : Statement (.rorAbx addr) :=
  ⟨.word .rorAbx, (rfl : opcodeForm 0x7E = _), rfl, rfl, rfl,
    fun rest => congrArg (fun a => some (Instr.rorAbx a, rest)) (word16_hi_lo addr)⟩

theorem bbr7 (z : Byte) (r : Byte) : Statement (.bbr7 z r) :=
  ⟨.zpr .bbr7, (rfl : opcodeForm 0x7F = _), rfl, rfl, rfl, fun _ => rfl⟩

theorem bra (r : Byte) : Statement (.bra r) :=
  ⟨.byte .bra, (rfl : opcodeForm 0x80 = _), rfl, rfl, rfl, fun _ => rfl⟩

theorem staIzx (z : Byte) : Statement (.staIzx z) :=
  ⟨.byte .staIzx, (rfl : opcodeForm 0x81 = _), rfl, rfl, rfl, fun _ => rfl⟩

theorem styZp (z : Byte) : Statement (.styZp z) :=
  ⟨.byte .styZp, (rfl : opcodeForm 0x84 = _), rfl, rfl, rfl, fun _ => rfl⟩

theorem staZp (z : Byte) : Statement (.staZp z) :=
  ⟨.byte .staZp, (rfl : opcodeForm 0x85 = _), rfl, rfl, rfl, fun _ => rfl⟩

theorem stxZp (z : Byte) : Statement (.stxZp z) :=
  ⟨.byte .stxZp, (rfl : opcodeForm 0x86 = _), rfl, rfl, rfl, fun _ => rfl⟩

theorem smb0 (z : Byte) : Statement (.smb0 z) :=
  ⟨.byte .smb0, (rfl : opcodeForm 0x87 = _), rfl, rfl, rfl, fun _ => rfl⟩

theorem dey : Statement .dey :=
  ⟨.plain .dey, (rfl : opcodeForm 0x88 = _), rfl, rfl, rfl, fun _ => rfl⟩

theorem bitImm (v : Byte) : Statement (.bitImm v) :=
  ⟨.byte .bitImm, (rfl : opcodeForm 0x89 = _), rfl, rfl, rfl, fun _ => rfl⟩

theorem txa : Statement .txa :=
  ⟨.plain .txa, (rfl : opcodeForm 0x8A = _), rfl, rfl, rfl, fun _ => rfl⟩

theorem styAbs (addr : Addr) : Statement (.styAbs addr) :=
  ⟨.word .styAbs, (rfl : opcodeForm 0x8C = _), rfl, rfl, rfl,
    fun rest => congrArg (fun a => some (Instr.styAbs a, rest)) (word16_hi_lo addr)⟩

theorem staAbs (addr : Addr) : Statement (.staAbs addr) :=
  ⟨.word .staAbs, (rfl : opcodeForm 0x8D = _), rfl, rfl, rfl,
    fun rest => congrArg (fun a => some (Instr.staAbs a, rest)) (word16_hi_lo addr)⟩

theorem stxAbs (addr : Addr) : Statement (.stxAbs addr) :=
  ⟨.word .stxAbs, (rfl : opcodeForm 0x8E = _), rfl, rfl, rfl,
    fun rest => congrArg (fun a => some (Instr.stxAbs a, rest)) (word16_hi_lo addr)⟩

theorem bbs0 (z : Byte) (r : Byte) : Statement (.bbs0 z r) :=
  ⟨.zpr .bbs0, (rfl : opcodeForm 0x8F = _), rfl, rfl, rfl, fun _ => rfl⟩

theorem bcc (r : Byte) : Statement (.bcc r) :=
  ⟨.byte .bcc, (rfl : opcodeForm 0x90 = _), rfl, rfl, rfl, fun _ => rfl⟩

theorem staIzy (z : Byte) : Statement (.staIzy z) :=
  ⟨.byte .staIzy, (rfl : opcodeForm 0x91 = _), rfl, rfl, rfl, fun _ => rfl⟩

theorem staIzp (z : Byte) : Statement (.staIzp z) :=
  ⟨.byte .staIzp, (rfl : opcodeForm 0x92 = _), rfl, rfl, rfl, fun _ => rfl⟩

theorem styZpx (z : Byte) : Statement (.styZpx z) :=
  ⟨.byte .styZpx, (rfl : opcodeForm 0x94 = _), rfl, rfl, rfl, fun _ => rfl⟩

theorem staZpx (z : Byte) : Statement (.staZpx z) :=
  ⟨.byte .staZpx, (rfl : opcodeForm 0x95 = _), rfl, rfl, rfl, fun _ => rfl⟩

theorem stxZpy (z : Byte) : Statement (.stxZpy z) :=
  ⟨.byte .stxZpy, (rfl : opcodeForm 0x96 = _), rfl, rfl, rfl, fun _ => rfl⟩

theorem smb1 (z : Byte) : Statement (.smb1 z) :=
  ⟨.byte .smb1, (rfl : opcodeForm 0x97 = _), rfl, rfl, rfl, fun _ => rfl⟩

theorem tya : Statement .tya :=
  ⟨.plain .tya, (rfl : opcodeForm 0x98 = _), rfl, rfl, rfl, fun _ => rfl⟩

theorem staAby (addr : Addr) : Statement (.staAby addr) :=
  ⟨.word .staAby, (rfl : opcodeForm 0x99 = _), rfl, rfl, rfl,
    fun rest => congrArg (fun a => some (Instr.staAby a, rest)) (word16_hi_lo addr)⟩

theorem txs : Statement .txs :=
  ⟨.plain .txs, (rfl : opcodeForm 0x9A = _), rfl, rfl, rfl, fun _ => rfl⟩

theorem stzAbs (addr : Addr) : Statement (.stzAbs addr) :=
  ⟨.word .stzAbs, (rfl : opcodeForm 0x9C = _), rfl, rfl, rfl,
    fun rest => congrArg (fun a => some (Instr.stzAbs a, rest)) (word16_hi_lo addr)⟩

theorem staAbx (addr : Addr) : Statement (.staAbx addr) :=
  ⟨.word .staAbx, (rfl : opcodeForm 0x9D = _), rfl, rfl, rfl,
    fun rest => congrArg (fun a => some (Instr.staAbx a, rest)) (word16_hi_lo addr)⟩

theorem stzAbx (addr : Addr) : Statement (.stzAbx addr) :=
  ⟨.word .stzAbx, (rfl : opcodeForm 0x9E = _), rfl, rfl, rfl,
    fun rest => congrArg (fun a => some (Instr.stzAbx a, rest)) (word16_hi_lo addr)⟩

theorem bbs1 (z : Byte) (r : Byte) : Statement (.bbs1 z r) :=
  ⟨.zpr .bbs1, (rfl : opcodeForm 0x9F = _), rfl, rfl, rfl, fun _ => rfl⟩

theorem ldyImm (v : Byte) : Statement (.ldyImm v) :=
  ⟨.byte .ldyImm, (rfl : opcodeForm 0xA0 = _), rfl, rfl, rfl, fun _ => rfl⟩

theorem ldaIzx (z : Byte) : Statement (.ldaIzx z) :=
  ⟨.byte .ldaIzx, (rfl : opcodeForm 0xA1 = _), rfl, rfl, rfl, fun _ => rfl⟩

theorem ldxImm (v : Byte) : Statement (.ldxImm v) :=
  ⟨.byte .ldxImm, (rfl : opcodeForm 0xA2 = _), rfl, rfl, rfl, fun _ => rfl⟩

theorem ldyZp (z : Byte) : Statement (.ldyZp z) :=
  ⟨.byte .ldyZp, (rfl : opcodeForm 0xA4 = _), rfl, rfl, rfl, fun _ => rfl⟩

theorem ldaZp (z : Byte) : Statement (.ldaZp z) :=
  ⟨.byte .ldaZp, (rfl : opcodeForm 0xA5 = _), rfl, rfl, rfl, fun _ => rfl⟩

theorem ldxZp (z : Byte) : Statement (.ldxZp z) :=
  ⟨.byte .ldxZp, (rfl : opcodeForm 0xA6 = _), rfl, rfl, rfl, fun _ => rfl⟩

theorem smb2 (z : Byte) : Statement (.smb2 z) :=
  ⟨.byte .smb2, (rfl : opcodeForm 0xA7 = _), rfl, rfl, rfl, fun _ => rfl⟩

theorem tay : Statement .tay :=
  ⟨.plain .tay, (rfl : opcodeForm 0xA8 = _), rfl, rfl, rfl, fun _ => rfl⟩

theorem ldaImm (v : Byte) : Statement (.ldaImm v) :=
  ⟨.byte .ldaImm, (rfl : opcodeForm 0xA9 = _), rfl, rfl, rfl, fun _ => rfl⟩

theorem tax : Statement .tax :=
  ⟨.plain .tax, (rfl : opcodeForm 0xAA = _), rfl, rfl, rfl, fun _ => rfl⟩

theorem ldyAbs (addr : Addr) : Statement (.ldyAbs addr) :=
  ⟨.word .ldyAbs, (rfl : opcodeForm 0xAC = _), rfl, rfl, rfl,
    fun rest => congrArg (fun a => some (Instr.ldyAbs a, rest)) (word16_hi_lo addr)⟩

theorem ldaAbs (addr : Addr) : Statement (.ldaAbs addr) :=
  ⟨.word .ldaAbs, (rfl : opcodeForm 0xAD = _), rfl, rfl, rfl,
    fun rest => congrArg (fun a => some (Instr.ldaAbs a, rest)) (word16_hi_lo addr)⟩

theorem ldxAbs (addr : Addr) : Statement (.ldxAbs addr) :=
  ⟨.word .ldxAbs, (rfl : opcodeForm 0xAE = _), rfl, rfl, rfl,
    fun rest => congrArg (fun a => some (Instr.ldxAbs a, rest)) (word16_hi_lo addr)⟩

theorem bbs2 (z : Byte) (r : Byte) : Statement (.bbs2 z r) :=
  ⟨.zpr .bbs2, (rfl : opcodeForm 0xAF = _), rfl, rfl, rfl, fun _ => rfl⟩

theorem bcs (r : Byte) : Statement (.bcs r) :=
  ⟨.byte .bcs, (rfl : opcodeForm 0xB0 = _), rfl, rfl, rfl, fun _ => rfl⟩

theorem ldaIzy (z : Byte) : Statement (.ldaIzy z) :=
  ⟨.byte .ldaIzy, (rfl : opcodeForm 0xB1 = _), rfl, rfl, rfl, fun _ => rfl⟩

theorem ldaIzp (z : Byte) : Statement (.ldaIzp z) :=
  ⟨.byte .ldaIzp, (rfl : opcodeForm 0xB2 = _), rfl, rfl, rfl, fun _ => rfl⟩

theorem ldyZpx (z : Byte) : Statement (.ldyZpx z) :=
  ⟨.byte .ldyZpx, (rfl : opcodeForm 0xB4 = _), rfl, rfl, rfl, fun _ => rfl⟩

theorem ldaZpx (z : Byte) : Statement (.ldaZpx z) :=
  ⟨.byte .ldaZpx, (rfl : opcodeForm 0xB5 = _), rfl, rfl, rfl, fun _ => rfl⟩

theorem ldxZpy (z : Byte) : Statement (.ldxZpy z) :=
  ⟨.byte .ldxZpy, (rfl : opcodeForm 0xB6 = _), rfl, rfl, rfl, fun _ => rfl⟩

theorem smb3 (z : Byte) : Statement (.smb3 z) :=
  ⟨.byte .smb3, (rfl : opcodeForm 0xB7 = _), rfl, rfl, rfl, fun _ => rfl⟩

theorem clv : Statement .clv :=
  ⟨.plain .clv, (rfl : opcodeForm 0xB8 = _), rfl, rfl, rfl, fun _ => rfl⟩

theorem ldaAby (addr : Addr) : Statement (.ldaAby addr) :=
  ⟨.word .ldaAby, (rfl : opcodeForm 0xB9 = _), rfl, rfl, rfl,
    fun rest => congrArg (fun a => some (Instr.ldaAby a, rest)) (word16_hi_lo addr)⟩

theorem tsx : Statement .tsx :=
  ⟨.plain .tsx, (rfl : opcodeForm 0xBA = _), rfl, rfl, rfl, fun _ => rfl⟩

theorem ldyAbx (addr : Addr) : Statement (.ldyAbx addr) :=
  ⟨.word .ldyAbx, (rfl : opcodeForm 0xBC = _), rfl, rfl, rfl,
    fun rest => congrArg (fun a => some (Instr.ldyAbx a, rest)) (word16_hi_lo addr)⟩

theorem ldaAbx (addr : Addr) : Statement (.ldaAbx addr) :=
  ⟨.word .ldaAbx, (rfl : opcodeForm 0xBD = _), rfl, rfl, rfl,
    fun rest => congrArg (fun a => some (Instr.ldaAbx a, rest)) (word16_hi_lo addr)⟩

theorem ldxAby (addr : Addr) : Statement (.ldxAby addr) :=
  ⟨.word .ldxAby, (rfl : opcodeForm 0xBE = _), rfl, rfl, rfl,
    fun rest => congrArg (fun a => some (Instr.ldxAby a, rest)) (word16_hi_lo addr)⟩

theorem bbs3 (z : Byte) (r : Byte) : Statement (.bbs3 z r) :=
  ⟨.zpr .bbs3, (rfl : opcodeForm 0xBF = _), rfl, rfl, rfl, fun _ => rfl⟩

theorem cpyImm (v : Byte) : Statement (.cpyImm v) :=
  ⟨.byte .cpyImm, (rfl : opcodeForm 0xC0 = _), rfl, rfl, rfl, fun _ => rfl⟩

theorem cmpIzx (z : Byte) : Statement (.cmpIzx z) :=
  ⟨.byte .cmpIzx, (rfl : opcodeForm 0xC1 = _), rfl, rfl, rfl, fun _ => rfl⟩

theorem cpyZp (z : Byte) : Statement (.cpyZp z) :=
  ⟨.byte .cpyZp, (rfl : opcodeForm 0xC4 = _), rfl, rfl, rfl, fun _ => rfl⟩

theorem cmpZp (z : Byte) : Statement (.cmpZp z) :=
  ⟨.byte .cmpZp, (rfl : opcodeForm 0xC5 = _), rfl, rfl, rfl, fun _ => rfl⟩

theorem decZp (z : Byte) : Statement (.decZp z) :=
  ⟨.byte .decZp, (rfl : opcodeForm 0xC6 = _), rfl, rfl, rfl, fun _ => rfl⟩

theorem smb4 (z : Byte) : Statement (.smb4 z) :=
  ⟨.byte .smb4, (rfl : opcodeForm 0xC7 = _), rfl, rfl, rfl, fun _ => rfl⟩

theorem iny : Statement .iny :=
  ⟨.plain .iny, (rfl : opcodeForm 0xC8 = _), rfl, rfl, rfl, fun _ => rfl⟩

theorem cmpImm (v : Byte) : Statement (.cmpImm v) :=
  ⟨.byte .cmpImm, (rfl : opcodeForm 0xC9 = _), rfl, rfl, rfl, fun _ => rfl⟩

theorem dex : Statement .dex :=
  ⟨.plain .dex, (rfl : opcodeForm 0xCA = _), rfl, rfl, rfl, fun _ => rfl⟩

theorem wai : Statement .wai :=
  ⟨.plain .wai, (rfl : opcodeForm 0xCB = _), rfl, rfl, rfl, fun _ => rfl⟩

theorem cpyAbs (addr : Addr) : Statement (.cpyAbs addr) :=
  ⟨.word .cpyAbs, (rfl : opcodeForm 0xCC = _), rfl, rfl, rfl,
    fun rest => congrArg (fun a => some (Instr.cpyAbs a, rest)) (word16_hi_lo addr)⟩

theorem cmpAbs (addr : Addr) : Statement (.cmpAbs addr) :=
  ⟨.word .cmpAbs, (rfl : opcodeForm 0xCD = _), rfl, rfl, rfl,
    fun rest => congrArg (fun a => some (Instr.cmpAbs a, rest)) (word16_hi_lo addr)⟩

theorem decAbs (addr : Addr) : Statement (.decAbs addr) :=
  ⟨.word .decAbs, (rfl : opcodeForm 0xCE = _), rfl, rfl, rfl,
    fun rest => congrArg (fun a => some (Instr.decAbs a, rest)) (word16_hi_lo addr)⟩

theorem bbs4 (z : Byte) (r : Byte) : Statement (.bbs4 z r) :=
  ⟨.zpr .bbs4, (rfl : opcodeForm 0xCF = _), rfl, rfl, rfl, fun _ => rfl⟩

theorem bne (r : Byte) : Statement (.bne r) :=
  ⟨.byte .bne, (rfl : opcodeForm 0xD0 = _), rfl, rfl, rfl, fun _ => rfl⟩

theorem cmpIzy (z : Byte) : Statement (.cmpIzy z) :=
  ⟨.byte .cmpIzy, (rfl : opcodeForm 0xD1 = _), rfl, rfl, rfl, fun _ => rfl⟩

theorem cmpIzp (z : Byte) : Statement (.cmpIzp z) :=
  ⟨.byte .cmpIzp, (rfl : opcodeForm 0xD2 = _), rfl, rfl, rfl, fun _ => rfl⟩

theorem cmpZpx (z : Byte) : Statement (.cmpZpx z) :=
  ⟨.byte .cmpZpx, (rfl : opcodeForm 0xD5 = _), rfl, rfl, rfl, fun _ => rfl⟩

theorem decZpx (z : Byte) : Statement (.decZpx z) :=
  ⟨.byte .decZpx, (rfl : opcodeForm 0xD6 = _), rfl, rfl, rfl, fun _ => rfl⟩

theorem smb5 (z : Byte) : Statement (.smb5 z) :=
  ⟨.byte .smb5, (rfl : opcodeForm 0xD7 = _), rfl, rfl, rfl, fun _ => rfl⟩

theorem cld : Statement .cld :=
  ⟨.plain .cld, (rfl : opcodeForm 0xD8 = _), rfl, rfl, rfl, fun _ => rfl⟩

theorem cmpAby (addr : Addr) : Statement (.cmpAby addr) :=
  ⟨.word .cmpAby, (rfl : opcodeForm 0xD9 = _), rfl, rfl, rfl,
    fun rest => congrArg (fun a => some (Instr.cmpAby a, rest)) (word16_hi_lo addr)⟩

theorem phx : Statement .phx :=
  ⟨.plain .phx, (rfl : opcodeForm 0xDA = _), rfl, rfl, rfl, fun _ => rfl⟩

theorem stp : Statement .stp :=
  ⟨.plain .stp, (rfl : opcodeForm 0xDB = _), rfl, rfl, rfl, fun _ => rfl⟩

theorem cmpAbx (addr : Addr) : Statement (.cmpAbx addr) :=
  ⟨.word .cmpAbx, (rfl : opcodeForm 0xDD = _), rfl, rfl, rfl,
    fun rest => congrArg (fun a => some (Instr.cmpAbx a, rest)) (word16_hi_lo addr)⟩

theorem decAbx (addr : Addr) : Statement (.decAbx addr) :=
  ⟨.word .decAbx, (rfl : opcodeForm 0xDE = _), rfl, rfl, rfl,
    fun rest => congrArg (fun a => some (Instr.decAbx a, rest)) (word16_hi_lo addr)⟩

theorem bbs5 (z : Byte) (r : Byte) : Statement (.bbs5 z r) :=
  ⟨.zpr .bbs5, (rfl : opcodeForm 0xDF = _), rfl, rfl, rfl, fun _ => rfl⟩

theorem cpxImm (v : Byte) : Statement (.cpxImm v) :=
  ⟨.byte .cpxImm, (rfl : opcodeForm 0xE0 = _), rfl, rfl, rfl, fun _ => rfl⟩

theorem sbcIzx (z : Byte) : Statement (.sbcIzx z) :=
  ⟨.byte .sbcIzx, (rfl : opcodeForm 0xE1 = _), rfl, rfl, rfl, fun _ => rfl⟩

theorem cpxZp (z : Byte) : Statement (.cpxZp z) :=
  ⟨.byte .cpxZp, (rfl : opcodeForm 0xE4 = _), rfl, rfl, rfl, fun _ => rfl⟩

theorem sbcZp (z : Byte) : Statement (.sbcZp z) :=
  ⟨.byte .sbcZp, (rfl : opcodeForm 0xE5 = _), rfl, rfl, rfl, fun _ => rfl⟩

theorem incZp (z : Byte) : Statement (.incZp z) :=
  ⟨.byte .incZp, (rfl : opcodeForm 0xE6 = _), rfl, rfl, rfl, fun _ => rfl⟩

theorem smb6 (z : Byte) : Statement (.smb6 z) :=
  ⟨.byte .smb6, (rfl : opcodeForm 0xE7 = _), rfl, rfl, rfl, fun _ => rfl⟩

theorem inx : Statement .inx :=
  ⟨.plain .inx, (rfl : opcodeForm 0xE8 = _), rfl, rfl, rfl, fun _ => rfl⟩

theorem sbcImm (v : Byte) : Statement (.sbcImm v) :=
  ⟨.byte .sbcImm, (rfl : opcodeForm 0xE9 = _), rfl, rfl, rfl, fun _ => rfl⟩

theorem nop : Statement .nop :=
  ⟨.plain .nop, (rfl : opcodeForm 0xEA = _), rfl, rfl, rfl, fun _ => rfl⟩

theorem cpxAbs (addr : Addr) : Statement (.cpxAbs addr) :=
  ⟨.word .cpxAbs, (rfl : opcodeForm 0xEC = _), rfl, rfl, rfl,
    fun rest => congrArg (fun a => some (Instr.cpxAbs a, rest)) (word16_hi_lo addr)⟩

theorem sbcAbs (addr : Addr) : Statement (.sbcAbs addr) :=
  ⟨.word .sbcAbs, (rfl : opcodeForm 0xED = _), rfl, rfl, rfl,
    fun rest => congrArg (fun a => some (Instr.sbcAbs a, rest)) (word16_hi_lo addr)⟩

theorem incAbs (addr : Addr) : Statement (.incAbs addr) :=
  ⟨.word .incAbs, (rfl : opcodeForm 0xEE = _), rfl, rfl, rfl,
    fun rest => congrArg (fun a => some (Instr.incAbs a, rest)) (word16_hi_lo addr)⟩

theorem bbs6 (z : Byte) (r : Byte) : Statement (.bbs6 z r) :=
  ⟨.zpr .bbs6, (rfl : opcodeForm 0xEF = _), rfl, rfl, rfl, fun _ => rfl⟩

theorem beq (r : Byte) : Statement (.beq r) :=
  ⟨.byte .beq, (rfl : opcodeForm 0xF0 = _), rfl, rfl, rfl, fun _ => rfl⟩

theorem sbcIzy (z : Byte) : Statement (.sbcIzy z) :=
  ⟨.byte .sbcIzy, (rfl : opcodeForm 0xF1 = _), rfl, rfl, rfl, fun _ => rfl⟩

theorem sbcIzp (z : Byte) : Statement (.sbcIzp z) :=
  ⟨.byte .sbcIzp, (rfl : opcodeForm 0xF2 = _), rfl, rfl, rfl, fun _ => rfl⟩

theorem sbcZpx (z : Byte) : Statement (.sbcZpx z) :=
  ⟨.byte .sbcZpx, (rfl : opcodeForm 0xF5 = _), rfl, rfl, rfl, fun _ => rfl⟩

theorem incZpx (z : Byte) : Statement (.incZpx z) :=
  ⟨.byte .incZpx, (rfl : opcodeForm 0xF6 = _), rfl, rfl, rfl, fun _ => rfl⟩

theorem smb7 (z : Byte) : Statement (.smb7 z) :=
  ⟨.byte .smb7, (rfl : opcodeForm 0xF7 = _), rfl, rfl, rfl, fun _ => rfl⟩

theorem sed : Statement .sed :=
  ⟨.plain .sed, (rfl : opcodeForm 0xF8 = _), rfl, rfl, rfl, fun _ => rfl⟩

theorem sbcAby (addr : Addr) : Statement (.sbcAby addr) :=
  ⟨.word .sbcAby, (rfl : opcodeForm 0xF9 = _), rfl, rfl, rfl,
    fun rest => congrArg (fun a => some (Instr.sbcAby a, rest)) (word16_hi_lo addr)⟩

theorem plx : Statement .plx :=
  ⟨.plain .plx, (rfl : opcodeForm 0xFA = _), rfl, rfl, rfl, fun _ => rfl⟩

theorem sbcAbx (addr : Addr) : Statement (.sbcAbx addr) :=
  ⟨.word .sbcAbx, (rfl : opcodeForm 0xFD = _), rfl, rfl, rfl,
    fun rest => congrArg (fun a => some (Instr.sbcAbx a, rest)) (word16_hi_lo addr)⟩

theorem incAbx (addr : Addr) : Statement (.incAbx addr) :=
  ⟨.word .incAbx, (rfl : opcodeForm 0xFE = _), rfl, rfl, rfl,
    fun rest => congrArg (fun a => some (Instr.incAbx a, rest)) (word16_hi_lo addr)⟩

theorem bbs7 (z : Byte) (r : Byte) : Statement (.bbs7 z r) :=
  ⟨.zpr .bbs7, (rfl : opcodeForm 0xFF = _), rfl, rfl, rfl, fun _ => rfl⟩

end Sys2Proof.Laws.TableRow
end

