-- ==== Sys2Proof/Tests/Slice0.lean ====
section
/-! SUPPORT. The model's own tests: ill-formed instructions, the words of the opcode map, single steps with results
from 95_test_vectors.md or from the rule named, and a witness for the hypotheses of each statement. -/

namespace Sys2Proof.Tests

open Sys2Proof.Machine

/-! ### Helpers -/

/-- The six flags, written NVDIZC as in 95_test_vectors.md. -/
def fl (b : BitVec 6) : Flags where
  n := b.getLsbD 5
  v := b.getLsbD 4
  d := b.getLsbD 3
  i := b.getLsbD 2
  z := b.getLsbD 1
  c := b.getLsbD 0

/-- The standard configuration on NMOS. -/
def nmos : Config := { Config.standard with variant := .nmos6502 }

/-- A machine at the reset defaults, in a tick, with the bytes at PC and the cells in memory. -/
def startAt (pc : Addr) (bytes : List Byte) (cells : List (Nat × Byte)) : State :=
  let s : State := { State.reset.readyToFetch with pc := pc }
  placeBytes bytes pc s.sw (cells.foldl (fun s c => s.setMemByte c.1 c.2) s)

/-- Does an outcome give a next state that passes the check? -/
def passes (o : Host.Outcome State Fault Refusal) (check : State → Bool) : Bool :=
  match o with
  | .next t => check t
  | .fault _ => false
  | .refused _ => false

/-- Does one step answer a next state that passes the check? -/
def answers (s : State) (check : State → Bool) : Bool := passes (step s) check

/-- Does one step with a command of the host answer a next state that passes the check? -/
def obeys (s : State) (c : Command) (check : State → Bool) : Bool := answers { s with commands := [.now c] } check

/-- The instruction of the byte on W65C02S, with the operand bytes 34 and 12. -/
def decodeByte (op : Byte) : Option Instr :=
  match decode .w65c02s [op, 0x34, 0x12] with
  | .ok (i, _) => some i
  | .error _ => none

/-- The sixteen instructions of a row of the opcode map. -/
def decodeRow (first : Byte) : List (Option Instr) :=
  (List.range 16).map fun n => decodeByte (first + BitVec.ofNat 8 n)

/-! ### Well-formed instructions -/

/-- R133: the one check, availability, refuses a CMOS instruction on NMOS. -/
theorem test_wf_cmos_on_nmos : Instr.wf .nmos6502 (.bra 0x00) = false := by decide

/-- R133: it refuses a bit operation on the base 65C02. -/
theorem test_wf_bitops_on_c65c02 : Instr.wf .c65c02 (.rmb0 0x00) = false := by decide

/-- R133: it refuses WAI and STP on R65C02. -/
theorem test_wf_wai_on_r65c02 : (Instr.wf .r65c02 .wai, Instr.wf .r65c02 .stp) = (false, false) := by decide

/-- R133: what a variant has is well formed. -/
theorem test_wf_available :
    (Instr.wf .nmos6502 .brk, Instr.wf .c65c02 (.bra 0x00), Instr.wf .r65c02 (.rmb0 0x00), Instr.wf .w65c02s .wai) =
      (true, true, true, true) := by decide

/-! ### Decoding -/

/-- R140, row 0x of the opcode map. -/
theorem test_decode_row_0 : decodeRow 0x00 =
    [some .brk, some (.oraIzx 0x34), none, none, some (.tsbZp 0x34), some (.oraZp 0x34), some (.aslZp 0x34),
      some (.rmb0 0x34), some .php, some (.oraImm 0x34), some .aslAcc, none, some (.tsbAbs 0x1234),
      some (.oraAbs 0x1234), some (.aslAbs 0x1234), some (.bbr0 0x34 0x12)] := by decide

/-- R140, row 1x of the opcode map. -/
theorem test_decode_row_1 : decodeRow 0x10 =
    [some (.bpl 0x34), some (.oraIzy 0x34), some (.oraIzp 0x34), none, some (.trbZp 0x34), some (.oraZpx 0x34),
      some (.aslZpx 0x34), some (.rmb1 0x34), some .clc, some (.oraAby 0x1234), some .incAcc, none,
      some (.trbAbs 0x1234), some (.oraAbx 0x1234), some (.aslAbx 0x1234), some (.bbr1 0x34 0x12)] := by decide

/-- R140, row 2x of the opcode map. -/
theorem test_decode_row_2 : decodeRow 0x20 =
    [some (.jsr 0x1234), some (.andIzx 0x34), none, none, some (.bitZp 0x34), some (.andZp 0x34),
      some (.rolZp 0x34), some (.rmb2 0x34), some .plp, some (.andImm 0x34), some .rolAcc, none,
      some (.bitAbs 0x1234), some (.andAbs 0x1234), some (.rolAbs 0x1234), some (.bbr2 0x34 0x12)] := by decide

/-- R140, row 3x of the opcode map. -/
theorem test_decode_row_3 : decodeRow 0x30 =
    [some (.bmi 0x34), some (.andIzy 0x34), some (.andIzp 0x34), none, some (.bitZpx 0x34),
      some (.andZpx 0x34), some (.rolZpx 0x34), some (.rmb3 0x34), some .sec, some (.andAby 0x1234),
      some .decAcc, none, some (.bitAbx 0x1234), some (.andAbx 0x1234), some (.rolAbx 0x1234),
      some (.bbr3 0x34 0x12)] := by decide

/-- R140, row 4x of the opcode map. -/
theorem test_decode_row_4 : decodeRow 0x40 =
    [some .rti, some (.eorIzx 0x34), none, none, none, some (.eorZp 0x34), some (.lsrZp 0x34),
      some (.rmb4 0x34), some .pha, some (.eorImm 0x34), some .lsrAcc, none, some (.jmpAbs 0x1234),
      some (.eorAbs 0x1234), some (.lsrAbs 0x1234), some (.bbr4 0x34 0x12)] := by decide

/-- R140, row 5x of the opcode map. -/
theorem test_decode_row_5 : decodeRow 0x50 =
    [some (.bvc 0x34), some (.eorIzy 0x34), some (.eorIzp 0x34), none, none, some (.eorZpx 0x34),
      some (.lsrZpx 0x34), some (.rmb5 0x34), some .cli, some (.eorAby 0x1234), some .phy, none, none,
      some (.eorAbx 0x1234), some (.lsrAbx 0x1234), some (.bbr5 0x34 0x12)] := by decide

/-- R140, row 6x of the opcode map. -/
theorem test_decode_row_6 : decodeRow 0x60 =
    [some .rts, some (.adcIzx 0x34), none, none, some (.stzZp 0x34), some (.adcZp 0x34), some (.rorZp 0x34),
      some (.rmb6 0x34), some .pla, some (.adcImm 0x34), some .rorAcc, none, some (.jmpInd 0x1234),
      some (.adcAbs 0x1234), some (.rorAbs 0x1234), some (.bbr6 0x34 0x12)] := by decide

/-- R140, row 7x of the opcode map. -/
theorem test_decode_row_7 : decodeRow 0x70 =
    [some (.bvs 0x34), some (.adcIzy 0x34), some (.adcIzp 0x34), none, some (.stzZpx 0x34),
      some (.adcZpx 0x34), some (.rorZpx 0x34), some (.rmb7 0x34), some .sei, some (.adcAby 0x1234), some .ply,
      none, some (.jmpIax 0x1234), some (.adcAbx 0x1234), some (.rorAbx 0x1234), some (.bbr7 0x34 0x12)] := by decide

/-- R140, row 8x of the opcode map. -/
theorem test_decode_row_8 : decodeRow 0x80 =
    [some (.bra 0x34), some (.staIzx 0x34), none, none, some (.styZp 0x34), some (.staZp 0x34),
      some (.stxZp 0x34), some (.smb0 0x34), some .dey, some (.bitImm 0x34), some .txa, none,
      some (.styAbs 0x1234), some (.staAbs 0x1234), some (.stxAbs 0x1234), some (.bbs0 0x34 0x12)] := by decide

/-- R140, row 9x of the opcode map. -/
theorem test_decode_row_9 : decodeRow 0x90 =
    [some (.bcc 0x34), some (.staIzy 0x34), some (.staIzp 0x34), none, some (.styZpx 0x34),
      some (.staZpx 0x34), some (.stxZpy 0x34), some (.smb1 0x34), some .tya, some (.staAby 0x1234), some .txs,
      none, some (.stzAbs 0x1234), some (.staAbx 0x1234), some (.stzAbx 0x1234), some (.bbs1 0x34 0x12)] := by decide

/-- R140, row Ax of the opcode map. -/
theorem test_decode_row_A : decodeRow 0xA0 =
    [some (.ldyImm 0x34), some (.ldaIzx 0x34), some (.ldxImm 0x34), none, some (.ldyZp 0x34),
      some (.ldaZp 0x34), some (.ldxZp 0x34), some (.smb2 0x34), some .tay, some (.ldaImm 0x34), some .tax,
      none, some (.ldyAbs 0x1234), some (.ldaAbs 0x1234), some (.ldxAbs 0x1234), some (.bbs2 0x34 0x12)] := by decide

/-- R140, row Bx of the opcode map. -/
theorem test_decode_row_B : decodeRow 0xB0 =
    [some (.bcs 0x34), some (.ldaIzy 0x34), some (.ldaIzp 0x34), none, some (.ldyZpx 0x34),
      some (.ldaZpx 0x34), some (.ldxZpy 0x34), some (.smb3 0x34), some .clv, some (.ldaAby 0x1234), some .tsx,
      none, some (.ldyAbx 0x1234), some (.ldaAbx 0x1234), some (.ldxAby 0x1234), some (.bbs3 0x34 0x12)] := by decide

/-- R140, row Cx of the opcode map. -/
theorem test_decode_row_C : decodeRow 0xC0 =
    [some (.cpyImm 0x34), some (.cmpIzx 0x34), none, none, some (.cpyZp 0x34), some (.cmpZp 0x34),
      some (.decZp 0x34), some (.smb4 0x34), some .iny, some (.cmpImm 0x34), some .dex, some .wai,
      some (.cpyAbs 0x1234), some (.cmpAbs 0x1234), some (.decAbs 0x1234), some (.bbs4 0x34 0x12)] := by decide

/-- R140, row Dx of the opcode map. -/
theorem test_decode_row_D : decodeRow 0xD0 =
    [some (.bne 0x34), some (.cmpIzy 0x34), some (.cmpIzp 0x34), none, none, some (.cmpZpx 0x34),
      some (.decZpx 0x34), some (.smb5 0x34), some .cld, some (.cmpAby 0x1234), some .phx, some .stp, none,
      some (.cmpAbx 0x1234), some (.decAbx 0x1234), some (.bbs5 0x34 0x12)] := by decide

/-- R140, row Ex of the opcode map. -/
theorem test_decode_row_E : decodeRow 0xE0 =
    [some (.cpxImm 0x34), some (.sbcIzx 0x34), none, none, some (.cpxZp 0x34), some (.sbcZp 0x34),
      some (.incZp 0x34), some (.smb6 0x34), some .inx, some (.sbcImm 0x34), some .nop, none,
      some (.cpxAbs 0x1234), some (.sbcAbs 0x1234), some (.incAbs 0x1234), some (.bbs6 0x34 0x12)] := by decide

/-- R140, row Fx of the opcode map. -/
theorem test_decode_row_F : decodeRow 0xF0 =
    [some (.beq 0x34), some (.sbcIzy 0x34), some (.sbcIzp 0x34), none, none, some (.sbcZpx 0x34),
      some (.incZpx 0x34), some (.smb7 0x34), some .sed, some (.sbcAby 0x1234), some .plx, none, none,
      some (.sbcAbx 0x1234), some (.incAbx 0x1234), some (.bbs7 0x34 0x12)] := by decide

/-! ### Addressing modes -/

/-- 95_test_vectors.md AM1 (R184). -/
theorem test_AM1_lda :
    answers { startAt 0x0200 [0xB5, 0xF0] [(0x0010, 0x5A)] with x := 0x20 }
      (fun t => t.a == 0x5A && t.tickCycles == 4) = true := by decide

/-- 95_test_vectors.md AM2 (R185). -/
theorem test_AM2_ldx :
    answers { startAt 0x0200 [0xB6, 0xFF] [(0x0000, 0x77)] with y := 0x01 }
      (fun t => t.x == 0x77 && t.tickCycles == 4) = true := by decide

/-- 95_test_vectors.md AM3 (R186). -/
theorem test_AM3_lda :
    answers { startAt 0x0200 [0xA1, 0xFE] [(0x00FF, 0x34), (0x0000, 0x12), (0x1234, 0xAB)] with x := 0x01 }
      (fun t => t.a == 0xAB && t.tickCycles == 6) = true := by decide

/-- 95_test_vectors.md AM4 (R187). -/
theorem test_AM4_lda :
    answers { startAt 0x0200 [0xB1, 0x40] [(0x0040, 0xF8), (0x0041, 0x12), (0x1308, 0x99)] with y := 0x10 }
      (fun t => t.a == 0x99 && t.p == fl 0b100100 && t.tickCycles == 6) = true := by decide

/-- 95_test_vectors.md AM5 (R187). -/
theorem test_AM5_lda :
    answers { startAt 0x0200 [0xB1, 0x40] [(0x0040, 0x00), (0x0041, 0x12), (0x1201, 0x01)] with y := 0x01 }
      (fun t => t.a == 0x01 && t.tickCycles == 5) = true := by decide

/-- 95_test_vectors.md AM6 (R188). -/
theorem test_AM6_lda :
    answers (startAt 0x0200 [0xB2, 0xFF] [(0x00FF, 0x00), (0x0000, 0x30), (0x3000, 0x00)])
      (fun t => t.a == 0x00 && t.p == fl 0b000110 && t.tickCycles == 5) = true := by decide

/-- 95_test_vectors.md AM7 (R190). -/
theorem test_AM7_lda :
    answers { startAt 0x0200 [0xBD, 0xFF, 0xFF] [(0x0001, 0x42)] with x := 0x02 }
      (fun t => t.a == 0x42 && t.tickCycles == 5) = true := by decide

/-- 95_test_vectors.md AM8 (R191). -/
theorem test_AM8_sta :
    answers { startAt 0x0200 [0x99, 0x01, 0x30] [] with y := 0xFF }
      (fun t => t.memByte 0x3100 == 0x00 && t.tickCycles == 5) = true := by decide

/-- 95_test_vectors.md AM9 (R190). -/
theorem test_AM9_asl :
    answers { startAt 0x0200 [0x1E, 0xFF, 0x30] [(0x3100, 0x81)] with x := 0x01 }
      (fun t => t.memByte 0x3100 == 0x02 && t.p == fl 0b000101 && t.tickCycles == 7) = true := by decide

/-- 95_test_vectors.md AM10 (R190). -/
theorem test_AM10_asl :
    answers { startAt 0x0200 [0x1E, 0xFF, 0x30] [(0x3100, 0x81)] with x := 0x01, cfg := nmos }
      (fun t => t.memByte 0x3100 == 0x02 && t.p == fl 0b000101 && t.tickCycles == 7) = true := by decide

/-- 95_test_vectors.md AM11 (R190). -/
theorem test_AM11_inc :
    answers { startAt 0x0200 [0xFE, 0xFF, 0x30] [(0x3100, 0xFF)] with x := 0x01 }
      (fun t => t.memByte 0x3100 == 0x00 && t.p == fl 0b000110 && t.tickCycles == 7) = true := by decide

/-- 95_test_vectors.md AM12 (R192). -/
theorem test_AM12_jmp :
    answers (startAt 0x0200 [0x6C, 0xFF, 0x10] [(0x10FF, 0x34), (0x1100, 0x12), (0x1000, 0x56)])
      (fun t => t.pc == 0x1234 && t.tickCycles == 6) = true := by decide

/-- 95_test_vectors.md AM13 (R192). -/
theorem test_AM13_jmp :
    answers { startAt 0x0200 [0x6C, 0xFF, 0x10] [(0x10FF, 0x34), (0x1100, 0x12), (0x1000, 0x56)] with cfg := nmos }
      (fun t => t.pc == 0x5634 && t.tickCycles == 5) = true := by decide

/-- 95_test_vectors.md AM14 (R193). -/
theorem test_AM14_jmp :
    answers { startAt 0x0200 [0x7C, 0x01, 0x20] [(0x2100, 0x00), (0x2101, 0x80)] with x := 0xFF }
      (fun t => t.pc == 0x8000 && t.tickCycles == 6) = true := by decide

/-- 95_test_vectors.md AM15 (R194). -/
theorem test_AM15_bne :
    answers (startAt 0xFF80 [0xD0, 0x7F] [])
      (fun t => t.pc == 0x0001 && t.tickCycles == 4) = true := by decide

/-- 95_test_vectors.md AM16 (R179). -/
theorem test_AM16_lda :
    answers (startAt 0xFFFE [0xAD, 0x00, 0x02] [(0x0200, 0x5A)])
      (fun t => t.a == 0x5A && t.pc == 0x0001) = true := by decide

/-! ### Loads, stores and transfers -/

/-- 95_test_vectors.md LS1 (R231). -/
theorem test_LS1_lda :
    answers { startAt 0x0200 [0xA9, 0x00] [] with a := 0x55 }
      (fun t => t.a == 0x00 && t.p == fl 0b000110 && t.tickCycles == 2) = true := by decide

/-- 95_test_vectors.md LS2 (R231). -/
theorem test_LS2_lda :
    answers (startAt 0x0200 [0xA9, 0x80] [])
      (fun t => t.a == 0x80 && t.p == fl 0b100100 && t.tickCycles == 2) = true := by decide

/-- 95_test_vectors.md LS3 (R232). -/
theorem test_LS3_ldx :
    answers { startAt 0x0200 [0xBE, 0xFE, 0x10] [(0x1103, 0x7F)] with y := 0x05 }
      (fun t => t.x == 0x7F && t.p == fl 0b000100 && t.tickCycles == 5) = true := by decide

/-- 95_test_vectors.md LS4 (R233). -/
theorem test_LS4_ldy :
    answers { startAt 0x0200 [0xBC, 0x00, 0x20] [(0x2001, 0x00)] with x := 0x01 }
      (fun t => t.y == 0x00 && t.p == fl 0b000110 && t.tickCycles == 4) = true := by decide

/-- 95_test_vectors.md LS5 (R234). -/
theorem test_LS5_sta :
    answers { startAt 0x0200 [0x81, 0x20] [(0x0024, 0x00), (0x0025, 0x04)] with a := 0xC3, x := 0x04 }
      (fun t => t.memByte 0x0400 == 0xC3 && t.p == fl 0b000100 && t.tickCycles == 6) = true := by decide

/-- 95_test_vectors.md LS6 (R235). -/
theorem test_LS6_stx :
    answers { startAt 0x0200 [0x96, 0xF8] [] with x := 0x99, y := 0x10 }
      (fun t => t.memByte 0x0008 == 0x99 && t.tickCycles == 4) = true := by decide

/-- 95_test_vectors.md LS7 (R236). -/
theorem test_LS7_sty :
    answers { startAt 0x0200 [0x94, 0xFF] [] with y := 0x01, x := 0x10 }
      (fun t => t.memByte 0x000F == 0x01 && t.tickCycles == 4) = true := by decide

/-- 95_test_vectors.md LS8 (R237). -/
theorem test_LS8_stz :
    answers { startAt 0x0200 [0x9E, 0xFF, 0x02] [(0x0300, 0xEE)] with x := 0x01 }
      (fun t => t.memByte 0x0300 == 0x00 && t.tickCycles == 5) = true := by decide

/-- 95_test_vectors.md LS9 (R242). -/
theorem test_LS9_tsx :
    answers { startAt 0x0200 [0xBA] [] with sp := 0x00 }
      (fun t => t.x == 0x00 && t.p == fl 0b000110) = true := by decide

/-- 95_test_vectors.md LS10 (R243). -/
theorem test_LS10_txs :
    answers { startAt 0x0200 [0x9A] [] with x := 0x00, p := fl 0b100100 }
      (fun t => t.sp == 0x00 && t.p == fl 0b100100) = true := by decide

/-- 95_test_vectors.md LS11 (R240). -/
theorem test_LS11_txa :
    answers { startAt 0x0200 [0x8A] [] with x := 0x80 }
      (fun t => t.a == 0x80 && t.p == fl 0b100100) = true := by decide

/-- R238: TAX copies A. -/
theorem test_tax :
    answers { startAt 0x0200 [0xAA] [] with a := 0x80 }
      (fun t => t.x == 0x80 && t.a == 0x80 && t.p == fl 0b100100 && t.tickCycles == 2) = true := by decide

/-- R239: TAY copies A. -/
theorem test_tay :
    answers { startAt 0x0200 [0xA8] [] with a := 0x00, y := 0x11 }
      (fun t => t.y == 0x00 && t.p == fl 0b000110 && t.tickCycles == 2) = true := by decide

/-- R241: TYA copies Y. -/
theorem test_tya :
    answers { startAt 0x0200 [0x98] [] with y := 0x7F }
      (fun t => t.a == 0x7F && t.p == fl 0b000100 && t.tickCycles == 2) = true := by decide

/-- R231, R183: LDA from page zero. -/
theorem test_lda_zp :
    answers (startAt 0x0200 [0xA5, 0x10] [(0x0010, 0x80)])
      (fun t => t.a == 0x80 && t.p == fl 0b100100 && t.tickCycles == 3) = true := by decide

/-- R234, R189: STA stores A and changes no flag. -/
theorem test_sta_abs :
    answers { startAt 0x0200 [0x8D, 0x00, 0x03] [] with a := 0x80, p := fl 0b000110 }
      (fun t => t.memByte 0x0300 == 0x80 && t.p == fl 0b000110 && t.tickCycles == 4) = true := by decide

/-- R236: STY stores Y. -/
theorem test_sty_abs :
    answers { startAt 0x0200 [0x8C, 0x00, 0x03] [] with y := 0x12, x := 0x34 }
      (fun t => t.memByte 0x0300 == 0x12 && t.tickCycles == 4) = true := by decide

/-! ### Stack -/

/-- 95_test_vectors.md ST1 (R261). -/
theorem test_ST1_pha :
    answers { startAt 0x0200 [0x48] [] with sp := 0x00, a := 0x11 }
      (fun t => t.memByte 0x0100 == 0x11 && t.sp == 0xFF) = true := by decide

/-- 95_test_vectors.md ST2 (R265). -/
theorem test_ST2_pla :
    answers { startAt 0x0200 [0x68] [(0x0100, 0x80)] with sp := 0xFF }
      (fun t => t.a == 0x80 && t.sp == 0x00 && t.p == fl 0b100100) = true := by decide

/-- 95_test_vectors.md ST3 (R262). -/
theorem test_ST3_php :
    answers { startAt 0x0200 [0x08] [] with sp := 0xFF, p := fl 0b111000 }
      (fun t => t.memByte 0x01FF == 0xF8) = true := by decide

/-- 95_test_vectors.md ST4 (R266). -/
theorem test_ST4_plp :
    answers { startAt 0x0200 [0x28] [(0x01FF, 0x30)] with sp := 0xFE }
      (fun t => pbyte t.p true == 0x30 && t.p == fl 0b000000) = true := by decide

/-- 95_test_vectors.md ST5 (R267). -/
theorem test_ST5_plx :
    answers { startAt 0x0200 [0xFA] [(0x01FF, 0x00)] with sp := 0xFE }
      (fun t => t.x == 0x00 && t.p == fl 0b000110 && t.tickCycles == 4) = true := by decide

/-- 95_test_vectors.md ST6 (R264). -/
theorem test_ST6_phy :
    answers { startAt 0x0200 [0x5A] [] with sp := 0x80, y := 0x5A }
      (fun t => t.memByte 0x0180 == 0x5A && t.sp == 0x7F && t.tickCycles == 3) = true := by decide

/-- R263: PHX pushes X. -/
theorem test_phx :
    answers { startAt 0x0200 [0xDA] [] with sp := 0x10, x := 0x33, y := 0x44 }
      (fun t => t.memByte 0x0110 == 0x33 && t.sp == 0x0F && t.tickCycles == 3) = true := by decide

/-- R268: PLY pulls Y. -/
theorem test_ply :
    answers { startAt 0x0200 [0x7A] [(0x0111, 0x80)] with sp := 0x10 }
      (fun t => t.y == 0x80 && t.sp == 0x11 && t.p == fl 0b100100 && t.tickCycles == 4) = true := by decide

/-! ### Arithmetic -/

/-- 95_test_vectors.md AR4 (R286). -/
theorem test_AR4_adc :
    answers { startAt 0x0200 [0x69, 0x80] [] with a := 0x80 }
      (fun t => t.a == 0x00 && t.p == fl 0b010111 && t.tickCycles == 2) = true := by decide

/-- 95_test_vectors.md AR6 (R286). -/
theorem test_AR6_adc :
    answers { startAt 0x0200 [0x69, 0x01] [] with a := 0x99, p := fl 0b001100, cfg := nmos }
      (fun t => t.a == 0x00 && t.p == fl 0b101101 && t.tickCycles == 2) = true := by decide

/-- AR10 in page zero (R286). -/
theorem test_AR10_adc_zp :
    answers { startAt 0x0200 [0x65, 0x10] [(0x0010, 0x00)] with a := 0x79, p := fl 0b001101 }
      (fun t => t.a == 0x80 && t.p == fl 0b111100 && t.tickCycles == 4) = true := by decide

/-- AR9 in page zero (R286): digits that are not decimal. -/
theorem test_AR9_adc_zp :
    answers { startAt 0x0200 [0x65, 0x10] [(0x0010, 0x0F)] with a := 0x0F, p := fl 0b001100 }
      (fun t => t.a == 0x14 && t.p == fl 0b001100 && t.tickCycles == 4) = true := by decide

/-- 95_test_vectors.md AR11 (R287). -/
theorem test_AR11_sbc :
    answers { startAt 0x0200 [0xE9, 0xB0] [] with a := 0x50, p := fl 0b000101 }
      (fun t => t.a == 0xA0 && t.p == fl 0b110100 && t.tickCycles == 2) = true := by decide

/-- 95_test_vectors.md AR17 (R287). -/
theorem test_AR17_sbc :
    answers { startAt 0x0200 [0xE9, 0x01] [] with a := 0x00, p := fl 0b001101, cfg := nmos }
      (fun t => t.a == 0x99 && t.p == fl 0b101100 && t.tickCycles == 2) = true := by decide

/-- AR14 in page zero (R287). -/
theorem test_AR14_sbc_zp :
    answers { startAt 0x0200 [0xE5, 0x10] [(0x0010, 0x01)] with a := 0x00, p := fl 0b001101 }
      (fun t => t.a == 0x99 && t.p == fl 0b101100 && t.tickCycles == 4) = true := by decide

/-- AR16 in page zero (R287). -/
theorem test_AR16_sbc_zp :
    answers { startAt 0x0200 [0xE5, 0x10] [(0x0010, 0x02)] with a := 0x32, p := fl 0b001100 }
      (fun t => t.a == 0x29 && t.p == fl 0b001101 && t.tickCycles == 4) = true := by decide

/-- 95_test_vectors.md AR18 (R289). -/
theorem test_AR18_cmp :
    answers { startAt 0x0200 [0xC9, 0xFF] [] with a := 0x01 }
      (fun t => t.p == fl 0b000100) = true := by decide

/-- 95_test_vectors.md AR19 (R289). -/
theorem test_AR19_cmp :
    answers { startAt 0x0200 [0xC9, 0x01] [] with a := 0xFF }
      (fun t => t.p == fl 0b100101) = true := by decide

/-- 95_test_vectors.md AR20 (R290). -/
theorem test_AR20_cpx :
    answers { startAt 0x0200 [0xE0, 0x00] [] with x := 0x00 }
      (fun t => t.p == fl 0b000111) = true := by decide

/-- 95_test_vectors.md AR21 (R291). -/
theorem test_AR21_cpy :
    answers { startAt 0x0200 [0xC0, 0x7F] [] with y := 0x80 }
      (fun t => t.p == fl 0b000101) = true := by decide

/-- 95_test_vectors.md AR22 (R292). -/
theorem test_AR22_inc :
    answers (startAt 0x0200 [0xE6, 0x10] [(0x0010, 0xFF)])
      (fun t => t.memByte 0x0010 == 0x00 && t.p == fl 0b000110 && t.tickCycles == 5) = true := by decide

/-- 95_test_vectors.md AR23 (R293). -/
theorem test_AR23_dec :
    answers { startAt 0x0200 [0xCE, 0x00, 0x03] [(0x0300, 0x00)] with p := fl 0b000101 }
      (fun t => t.memByte 0x0300 == 0xFF && t.p == fl 0b100101 && t.tickCycles == 6) = true := by decide

/-- 95_test_vectors.md AR24 (R292). -/
theorem test_AR24_inc :
    answers { startAt 0x0200 [0x1A] [] with a := 0x7F }
      (fun t => t.a == 0x80 && t.p == fl 0b100100 && t.tickCycles == 2) = true := by decide

/-- 95_test_vectors.md AR25 (R296). -/
theorem test_AR25_dex :
    answers { startAt 0x0200 [0xCA] [] with x := 0x00 }
      (fun t => t.x == 0xFF && t.p == fl 0b100100) = true := by decide

/-- 95_test_vectors.md AR26 (R286). -/
theorem test_AR26_adc :
    answers { startAt 0x0200 [0x6D, 0x00, 0x02] [(0x0200, 0x6D)] with a := 0x10, p := fl 0b001100 }
      (fun t => t.a == 0x83 && t.tickCycles == 5) = true := by decide

/-- R293: DEC A wraps. -/
theorem test_dec_acc :
    answers { startAt 0x0200 [0x3A] [] with a := 0x00 }
      (fun t => t.a == 0xFF && t.p == fl 0b100100 && t.tickCycles == 2) = true := by decide

/-- R294: INX wraps. -/
theorem test_inx :
    answers { startAt 0x0200 [0xE8] [] with x := 0xFF }
      (fun t => t.x == 0x00 && t.p == fl 0b000110 && t.tickCycles == 2) = true := by decide

/-- R295: INY. -/
theorem test_iny :
    answers { startAt 0x0200 [0xC8] [] with y := 0x7F }
      (fun t => t.y == 0x80 && t.p == fl 0b100100 && t.tickCycles == 2) = true := by decide

/-- R297: DEY. -/
theorem test_dey :
    answers { startAt 0x0200 [0x88] [] with y := 0x01 }
      (fun t => t.y == 0x00 && t.p == fl 0b000110 && t.tickCycles == 2) = true := by decide

/-! ### Logic, shifts and bits -/

/-- 95_test_vectors.md LG1 (R320). -/
theorem test_LG1_and :
    answers { startAt 0x0200 [0x29, 0x0F] [] with a := 0xF0 }
      (fun t => t.a == 0x00 && t.p == fl 0b000110 && t.tickCycles == 2) = true := by decide

/-- 95_test_vectors.md LG2 (R321). -/
theorem test_LG2_ora :
    answers { startAt 0x0200 [0x09, 0x00] [] with a := 0x00 }
      (fun t => t.a == 0x00 && t.p == fl 0b000110 && t.tickCycles == 2) = true := by decide

/-- 95_test_vectors.md LG3 (R322). -/
theorem test_LG3_eor :
    answers { startAt 0x0200 [0x49, 0xFF] [] with a := 0xFF }
      (fun t => t.a == 0x00 && t.p == fl 0b000110 && t.tickCycles == 2) = true := by decide

/-- 95_test_vectors.md LG4 (R323). -/
theorem test_LG4_bit :
    answers { startAt 0x0200 [0x89, 0xC0] [] with a := 0xFF }
      (fun t => t.p == fl 0b000100) = true := by decide

/-- 95_test_vectors.md LG5 (R323). -/
theorem test_LG5_bit :
    answers { startAt 0x0200 [0x2C, 0x00, 0x03] [(0x0300, 0x40)] with a := 0x00 }
      (fun t => t.p == fl 0b010110) = true := by decide

/-- 95_test_vectors.md LG6 (R323). -/
theorem test_LG6_bit :
    answers { startAt 0x0200 [0x34, 0x0F] [(0x0010, 0x81)] with a := 0x01, x := 0x01 }
      (fun t => t.p == fl 0b100100 && t.tickCycles == 4) = true := by decide

/-- 95_test_vectors.md LG7 (R324). -/
theorem test_LG7_asl :
    answers { startAt 0x0200 [0x0A] [] with a := 0x80 }
      (fun t => t.a == 0x00 && t.p == fl 0b000111 && t.tickCycles == 2) = true := by decide

/-- 95_test_vectors.md LG8 (R325). -/
theorem test_LG8_lsr :
    answers { startAt 0x0200 [0x4A] [] with a := 0x01 }
      (fun t => t.a == 0x00 && t.p == fl 0b000111 && t.tickCycles == 2) = true := by decide

/-- 95_test_vectors.md LG9 (R326). -/
theorem test_LG9_rol :
    answers { startAt 0x0200 [0x2A] [] with a := 0x80 }
      (fun t => t.a == 0x00 && t.p == fl 0b000111 && t.tickCycles == 2) = true := by decide

/-- 95_test_vectors.md LG10 (R327). -/
theorem test_LG10_ror :
    answers { startAt 0x0200 [0x6A] [] with a := 0x01, p := fl 0b000101 }
      (fun t => t.a == 0x80 && t.p == fl 0b100101 && t.tickCycles == 2) = true := by decide

/-- 95_test_vectors.md LG11 (R327). -/
theorem test_LG11_ror :
    answers (startAt 0x0200 [0x66, 0x10] [(0x0010, 0x01)])
      (fun t => t.memByte 0x0010 == 0x00 && t.p == fl 0b000111 && t.tickCycles == 5) = true := by decide

/-- 95_test_vectors.md LG12 (R328). -/
theorem test_LG12_tsb :
    answers { startAt 0x0200 [0x0C, 0x00, 0x03] [(0x0300, 0x02)] with a := 0x01 }
      (fun t => t.memByte 0x0300 == 0x03 && t.p == fl 0b000110 && t.tickCycles == 6) = true := by decide

/-- 95_test_vectors.md LG13 (R329). -/
theorem test_LG13_trb :
    answers { startAt 0x0200 [0x1C, 0x00, 0x03] [(0x0300, 0x07)] with a := 0x03 }
      (fun t => t.memByte 0x0300 == 0x04 && t.p == fl 0b000100) = true := by decide

/-- 95_test_vectors.md LG14 (R330). -/
theorem test_LG14_rmb5 :
    answers (startAt 0x0200 [0x57, 0x10] [(0x0010, 0xFF)])
      (fun t => t.memByte 0x0010 == 0xDF && t.tickCycles == 5) = true := by decide

/-- 95_test_vectors.md LG15 (R331). -/
theorem test_LG15_smb4 :
    answers (startAt 0x0200 [0xC7, 0x10] [(0x0010, 0x00)])
      (fun t => t.memByte 0x0010 == 0x10 && t.p == fl 0b000100) = true := by decide

/-- R320: AND keeps the common bits. -/
theorem test_and_zp :
    answers { startAt 0x0200 [0x25, 0x10] [(0x0010, 0x9C)] with a := 0xF3 }
      (fun t => t.a == 0x90 && t.p == fl 0b100100 && t.tickCycles == 3) = true := by decide

/-- R321: ORA joins the bits. -/
theorem test_ora_zp :
    answers { startAt 0x0200 [0x05, 0x10] [(0x0010, 0x12)] with a := 0x41 }
      (fun t => t.a == 0x53 && t.p == fl 0b000100 && t.tickCycles == 3) = true := by decide

/-- R322: EOR keeps the bits that differ. -/
theorem test_eor_zp :
    answers { startAt 0x0200 [0x45, 0x10] [(0x0010, 0x9C)] with a := 0xF3 }
      (fun t => t.a == 0x6F && t.p == fl 0b000100 && t.tickCycles == 3) = true := by decide

/-- R326: ROL takes the carry in at bit 0. -/
theorem test_rol_zp :
    answers { startAt 0x0200 [0x26, 0x10] [(0x0010, 0x40)] with p := fl 0b000101 }
      (fun t => t.memByte 0x0010 == 0x81 && t.p == fl 0b100100 && t.tickCycles == 5) = true := by decide

/-- R325: LSR clears N. -/
theorem test_lsr_zp :
    answers { startAt 0x0200 [0x46, 0x10] [(0x0010, 0x81)] with p := fl 0b100100 }
      (fun t => t.memByte 0x0010 == 0x40 && t.p == fl 0b000101 && t.tickCycles == 5) = true := by decide

/-! ### Control transfer -/

/-- 95_test_vectors.md CT2 (R367). -/
theorem test_CT2_bcc :
    answers (startAt 0x0200 [0x90, 0x80] [])
      (fun t => t.pc == 0x0182 && t.tickCycles == 4) = true := by decide

/-- 95_test_vectors.md CT3 (R367). -/
theorem test_CT3_bcc :
    answers { startAt 0x0200 [0x90, 0x80] [] with p := fl 0b000101 }
      (fun t => t.pc == 0x0202 && t.tickCycles == 2) = true := by decide

/-- 95_test_vectors.md CT4 (R376). -/
theorem test_CT4_bra :
    answers (startAt 0x0280 [0x80, 0x7E] [])
      (fun t => t.pc == 0x0300 && t.tickCycles == 4) = true := by decide

/-- 95_test_vectors.md CT5 (R377). -/
theorem test_CT5_bbr2 :
    answers (startAt 0x0200 [0x2F, 0x10, 0x02] [(0x0010, 0x04)])
      (fun t => t.pc == 0x0203 && t.tickCycles == 5) = true := by decide

/-- 95_test_vectors.md CT6 (R378). -/
theorem test_CT6_bbs2 :
    answers (startAt 0x0200 [0xAF, 0x10, 0x02] [(0x0010, 0x04)])
      (fun t => t.pc == 0x0205 && t.tickCycles == 6) = true := by decide

/-- 95_test_vectors.md CT7 (R378). -/
theorem test_CT7_bbs2 :
    answers (startAt 0x0280 [0xAF, 0x10, 0x7F] [(0x0010, 0x04)])
      (fun t => t.pc == 0x0302 && t.tickCycles == 7) = true := by decide

/-- 95_test_vectors.md CT8 (R363). -/
theorem test_CT8_jsr :
    answers { startAt 0x0200 [0x20, 0x34, 0x12] [] with sp := 0x00 }
      (fun t => t.pc == 0x1234 && t.sp == 0xFE && t.memByte 0x0100 == 0x02 && t.memByte 0x01FF == 0x02 && t.tickCycles == 6) = true := by decide

/-- 95_test_vectors.md CT9 (R364). -/
theorem test_CT9_rts :
    answers { startAt 0x0200 [0x60] [(0x01FE, 0xFF), (0x01FF, 0x12)] with sp := 0xFD }
      (fun t => t.pc == 0x1300 && t.sp == 0xFF && t.tickCycles == 6) = true := by decide

/-- 95_test_vectors.md CT10 (R365). -/
theorem test_CT10_rti :
    answers { startAt 0x0200 [0x40] [(0x01FD, 0xCF), (0x01FE, 0x00), (0x01FF, 0x80)] with sp := 0xFC }
      (fun t => t.pc == 0x8000 && t.sp == 0xFF && t.p == fl 0b111111 && t.tickCycles == 6) = true := by decide

/-- 95_test_vectors.md CT11 (R366). -/
theorem test_CT11_brk :
    answers { startAt 0x0300 [0x00, 0xEA] [(0xFFFE, 0x00), (0xFFFF, 0x90)] with sp := 0xFF, p := fl 0b001000 }
      (fun t => t.pc == 0x9000 && t.sp == 0xFC && t.memByte 0x01FF == 0x03 && t.memByte 0x01FE == 0x02 && t.memByte 0x01FD == 0x38 && t.p == fl 0b000100 && t.tickCycles == 7) = true := by decide

/-- 95_test_vectors.md CT12 (R366). -/
theorem test_CT12_brk :
    answers { startAt 0x0300 [0x00, 0xEA] [(0xFFFE, 0x00), (0xFFFF, 0x90)] with sp := 0xFF, p := fl 0b001000, cfg := nmos }
      (fun t => t.pc == 0x9000 && t.memByte 0x01FD == 0x38 && t.p == fl 0b001100) = true := by decide

/-- R368: BPL on N clear. -/
theorem test_bpl :
    answers (startAt 0x0200 [0x10, 0x10] [])
      (fun t => t.pc == 0x0212 && t.tickCycles == 3) = true := by decide

/-- R368: BPL not taken on N set. -/
theorem test_bpl_not_taken :
    answers { startAt 0x0200 [0x10, 0x10] [] with p := fl 0b100100 }
      (fun t => t.pc == 0x0202 && t.tickCycles == 2) = true := by decide

/-- R369: BMI on N set. -/
theorem test_bmi :
    answers { startAt 0x0200 [0x30, 0x10] [] with p := fl 0b100100 }
      (fun t => t.pc == 0x0212 && t.tickCycles == 3) = true := by decide

/-- R370: BVC on V clear. -/
theorem test_bvc :
    answers (startAt 0x0200 [0x50, 0x10] [])
      (fun t => t.pc == 0x0212 && t.tickCycles == 3) = true := by decide

/-- R371: BVS on V set. -/
theorem test_bvs :
    answers { startAt 0x0200 [0x70, 0x10] [] with p := fl 0b010100 }
      (fun t => t.pc == 0x0212 && t.tickCycles == 3) = true := by decide

/-- R373: BCS on C set. -/
theorem test_bcs :
    answers { startAt 0x0200 [0xB0, 0x10] [] with p := fl 0b000101 }
      (fun t => t.pc == 0x0212 && t.tickCycles == 3) = true := by decide

/-- R374: BNE not taken on Z set. -/
theorem test_bne_not_taken :
    answers { startAt 0x0200 [0xD0, 0x10] [] with p := fl 0b000110 }
      (fun t => t.pc == 0x0202 && t.tickCycles == 2) = true := by decide

/-- R375: BEQ on Z set. -/
theorem test_beq :
    answers { startAt 0x0200 [0xF0, 0x10] [] with p := fl 0b000110 }
      (fun t => t.pc == 0x0212 && t.tickCycles == 3) = true := by decide

/-- R360: JMP goes to its address. -/
theorem test_jmp_abs :
    answers (startAt 0x0805 [0x4C, 0x00, 0x08] [])
      (fun t => t.pc == 0x0800 && t.tickCycles == 3) = true := by decide

/-! ### Flags and system -/

/-- 95_test_vectors.md FS1 (R400). -/
theorem test_FS1_clc :
    answers { startAt 0x0200 [0x18] [] with p := fl 0b000111 }
      (fun t => t.p == fl 0b000110 && t.tickCycles == 2) = true := by decide

/-- 95_test_vectors.md FS2 (R406). -/
theorem test_FS2_clv :
    answers { startAt 0x0200 [0xB8] [] with p := fl 0b010100 }
      (fun t => t.p == fl 0b000100) = true := by decide

/-- 95_test_vectors.md FS3 (R405). -/
theorem test_FS3_sed :
    answers (startAt 0x0200 [0xF8] [])
      (fun t => t.p == fl 0b001100) = true := by decide

/-- 95_test_vectors.md FS4 (R407). -/
theorem test_FS4_nop :
    answers { startAt 0x0200 [0xEA] [] with a := 0x12 }
      (fun t => t.a == 0x12 && t.pc == 0x0201 && t.p == fl 0b000100 && t.tickCycles == 2) = true := by decide

/-- 95_test_vectors.md FS5 (R412). -/
theorem test_FS5_stp :
    answers (startAt 0x0200 [0xDB] [])
      (fun t => t.pc == 0x0201 && t.tickCycles == 3 && t.ctrl == .halted .stopped) = true := by decide

/-- R401: SEC. -/
theorem test_sec :
    answers (startAt 0x0200 [0x38] [])
      (fun t => t.p == fl 0b000101 && t.tickCycles == 2) = true := by decide

/-- R402: CLI. -/
theorem test_cli :
    answers { startAt 0x0200 [0x58] [] with p := fl 0b000101 }
      (fun t => t.p == fl 0b000001 && t.tickCycles == 2) = true := by decide

/-- R403: SEI. -/
theorem test_sei :
    answers { startAt 0x0200 [0x78] [] with p := fl 0b000000 }
      (fun t => t.p == fl 0b000100 && t.tickCycles == 2) = true := by decide

/-- R404: CLD. -/
theorem test_cld :
    answers { startAt 0x0200 [0xD8] [] with p := fl 0b001100 }
      (fun t => t.p == fl 0b000100 && t.tickCycles == 2) = true := by decide

/-- R411: WAI begins to wait. -/
theorem test_wai :
    answers (startAt 0x0400 [0xCB] [])
      (fun t => t.pc == 0x0401 && t.waiting && t.tickCycles == 3) = true := by decide

/-! ### Bit operations and bit branches, one theorem over each group -/

/-- R330: RMB0 to RMB7 clear their bit of FF. -/
theorem test_rmb_all :
    ([(0x07, 0xFE), (0x17, 0xFD), (0x27, 0xFB), (0x37, 0xF7), (0x47, 0xEF), (0x57, 0xDF), (0x67, 0xBF),
        (0x77, 0x7F)].all fun c : Byte × Byte =>
      answers (startAt 0x0200 [c.1, 0x10] [(0x10, 0xFF)]) fun t => t.memByte 0x10 == c.2) = true := by decide

/-- R331: SMB0 to SMB7 set their bit of 00. -/
theorem test_smb_all :
    ([(0x87, 0x01), (0x97, 0x02), (0xA7, 0x04), (0xB7, 0x08), (0xC7, 0x10), (0xD7, 0x20), (0xE7, 0x40),
        (0xF7, 0x80)].all fun c : Byte × Byte =>
      answers (startAt 0x0200 [c.1, 0x10] []) fun t => t.memByte 0x10 == c.2) = true := by decide

/-- R377: BBR0 to BBR7 are taken on a byte in which only their bit is clear. -/
theorem test_bbr_all :
    ([(0x0F, 0xFE), (0x1F, 0xFD), (0x2F, 0xFB), (0x3F, 0xF7), (0x4F, 0xEF), (0x5F, 0xDF), (0x6F, 0xBF),
        (0x7F, 0x7F)].all fun c : Byte × Byte =>
      answers (startAt 0x0200 [c.1, 0x10, 0x02] [(0x10, c.2)]) fun t => t.pc == 0x0205 && t.tickCycles == 6) =
      true := by decide

/-- R378: BBS0 to BBS7 are taken on a byte in which only their bit is set. -/
theorem test_bbs_all :
    ([(0x8F, 0x01), (0x9F, 0x02), (0xAF, 0x04), (0xBF, 0x08), (0xCF, 0x10), (0xDF, 0x20), (0xEF, 0x40),
        (0xFF, 0x80)].all fun c : Byte × Byte =>
      answers (startAt 0x0200 [c.1, 0x10, 0x02] [(0x10, c.2)]) fun t => t.pc == 0x0205 && t.tickCycles == 6) =
      true := by decide

/-! ### Reset, the table words and the fetch -/

/-- R46: the state after reset has the registers of R46, and a cold reset of that state is that state again. -/
theorem test_reset :
    passes (reset true { State.reset with a := 0x42, sp := 0x10, pc := 0x1234, ctrl := .running, tickCycles := 7 })
      (fun t => t == State.reset) = true := by decide

/-- R46, R45: the reset registers and the published channel. -/
theorem test_reset_channel :
    (State.reset.sp, State.reset.p, State.reset.channel) =
      (0xFD, fl 0b000100, { a := 0, x := 0, y := 0, sp := 0xFD, p := 0x34, pcLo := 0, pcHi := 0 }) := by decide

/-- The words of the opcode table, numbered from the first byte: `LDA #$80`, `STA $0200`, and no instruction at 02. -/
theorem test_table_words :
    (decodeTableWord 16 0x80A9, decodeTableWord 24 0x02008D, decodeTableWord 8 0xA9, decodeTableWord 8 0x02) =
      (some (.ldaImm 0x80), some (.staAbs 0x0200), some (.ldaImm 0x00), none) := by decide

/-- The placed instruction is the next one the engine runs: `LDA #$80`, then `JMP $0800`. -/
theorem test_fetch_word :
    (answers (State.reset.withFetchWord 16 0x80A9) (fun t => t.a == 0x80 && t.pc == 0x0002) &&
      answers (State.reset.withFetchWord 24 0x08004C) fun t => t.pc == 0x0800) = true := by decide

/-- The engine executes nothing at reset: it is Paused (R46). -/
theorem test_paused_at_reset : answers State.reset (fun t => t == State.reset) = true := by decide

/-! ### Interrupts, invalid opcodes and faults -/

/-- The start state of IV1. -/
def iv1 : State :=
  { startAt 0x0400 [0xEA] [(0xFFFE, 0x00), (0xFFFF, 0x90), (0xFFFA, 0x00), (0xFFFB, 0xA0)] with
    sp := 0xFF, p := fl 0b000001, pins := [{ nmiEdge := false, irqLine := true }] }

/-- 95_test_vectors.md IV1 (R431, R433). -/
theorem test_IV1_irq :
    answers iv1 (fun t =>
      t.memByte 0x01FF == 0x04 && t.memByte 0x01FE == 0x00 && t.memByte 0x01FD == 0x21 && t.sp == 0xFC && t.p.i &&
        t.pc == 0x9000 && t.tickCycles == 7) = true := by decide

/-- 95_test_vectors.md IV2 (R431). -/
theorem test_IV2_irq_masked :
    answers { iv1 with p := fl 0b000101 } (fun t => t.pc == 0x0401 && t.tickCycles == 2) = true := by decide

/-- 95_test_vectors.md IV3 (R430, R435). -/
theorem test_IV3_nmi :
    answers { iv1 with pins := [{ nmiEdge := true, irqLine := true }] }
      (fun t => t.pc == 0xA000 && t.p.i && !t.nmiLatch) = true := by decide

/-- 95_test_vectors.md IV4 (R433): D is pushed, then cleared on CMOS and kept on NMOS. -/
theorem test_IV4_decimal :
    (answers { iv1 with p := fl 0b001001 } (fun t => t.memByte 0x01FD == 0x29 && !t.p.d) &&
      answers { iv1 with p := fl 0b001001, cfg := nmos } fun t => t.memByte 0x01FD == 0x29 && t.p.d) = true := by
  decide

/-- 95_test_vectors.md IV6 (R411): a waiting boundary costs one cycle; the IRQ then pushes 04, 01. -/
theorem test_IV6_wait :
    (answers { iv1 with pc := 0x0401, waiting := true, pins := [] }
        (fun t => t.pc == 0x0401 && t.waiting && t.tickCycles == 1) &&
      answers { iv1 with pc := 0x0401, waiting := true } fun t =>
        t.memByte 0x01FF == 0x04 && t.memByte 0x01FE == 0x01 && !t.waiting && t.pc == 0x9000) = true := by decide

/-- 95_test_vectors.md IV8 (R412): nothing but a reset leaves Halted(stopped). -/
theorem test_IV8_stopped :
    answers { iv1 with stopped := true, ctrl := .halted .stopped, pins := [{ nmiEdge := true, irqLine := true }] }
      (fun t => t.ctrl == .halted .stopped && t.pc == 0x0400 && t.events == []) = true := by decide

/-- 95_test_vectors.md IO1 (R442). -/
theorem test_IO1_strict :
    answers { startAt 0x0500 [0x02] [] with a := 0x12 } (fun t =>
      t.ctrl == .halted .illegalOpcode && t.pc == 0x0500 && t.a == 0x12 && !t.inTick &&
        t.events == [.halted (.halt .illegalOpcode) 0x0500]) = true := by decide

/-- 95_test_vectors.md IO2 (R443). -/
theorem test_IO2_lenient :
    answers { startAt 0x0500 [0x02, 0xEA] [] with cfg := { Config.standard with invalidPolicy := .lenient } }
      (fun t => t.pc == 0x0501 && t.tickCycles == 1 && t.p == fl 0b000100) = true := by decide

/-- 95_test_vectors.md IO4 (R133, R145). -/
theorem test_IO4_nmos :
    ([[0x80, 0x02], [0x1A], [0x64, 0x10], [0x07, 0x10], [0xDB]].all fun bytes : List Byte =>
      answers { startAt 0x0500 bytes [] with cfg := nmos } fun t => t.ctrl == .halted .illegalOpcode) = true := by
  decide

/-- The machine of OR1: every access goes to the auxiliary bank while the switch is set, and memory ends below
part of it. -/
def or1 : State :=
  let cfg : Config :=
    { Config.standard with
      memSize := 0x18000
      bankMap := [{ guard := { kind := none, first := 0, last := 0xFFFF, swMask := 1, swBits := 1 }, offset := 0x10000 }] }
  placeBytes [0xAD, 0x00, 0x90] 0x0500 1 { State.reset.readyToFetch with cfg := cfg, sw := 1, pc := 0x0500, a := 0x77 }

/-- Does one step stop out of range at this physical address, with a check of the halted state? -/
def stopsAt (s : State) (p : Nat) (check : State → Bool) : Bool :=
  match step s with
  | .fault (.outOfRange q t) => q == p && check t
  | .next _ => false
  | .refused _ => false

/-- 95_test_vectors.md OR1 (R83, R445). -/
theorem test_OR1_read :
    stopsAt or1 0x19000 (fun t =>
      t.fault == some (.outOfRange 0x19000) && t.ctrl == .halted .outOfRange && t.a == 0x77 &&
        t.events == [.halted (.halt .outOfRange) 0x0500]) = true := by decide

/-- 95_test_vectors.md OR2 (R83): nothing is written. -/
theorem test_OR2_write :
    stopsAt (or1.setMemByte 0x10500 0x8D) 0x19000 (fun t => t.mem == (or1.setMemByte 0x10500 0x8D).mem) = true := by
  decide

/-- 95_test_vectors.md OR3 (R88): a refused debug read. -/
theorem test_OR3_debug_read : (debugRead or1 0x9000, debugRead or1 0x0500) = (none, some 0xAD) := by decide

/-! ### Breakpoints -/

/-- The machine of BT1 to BT5 after BT1. -/
def bt1 : State :=
  addBreakpoint { kind := .read, address := 0x10300, endAddress := none, enabled := true }
    { State.reset with cfg := { or1.cfg with memSize := 0x20000, bankOffsets := [0x00000, 0x10000] } }

/-- The machine after BT2. -/
def bt2 : State :=
  addBreakpoint { kind := .write, address := 0x0300, endAddress := some 0x0301, enabled := true } bt1

/-- 95_test_vectors.md BT1 (R471, R474). -/
theorem test_BT1_add : (bt1.bpSparse, bt1.bpDense) = ([(0x10300, 0x02)], [(0x0300, 0x02)]) := by decide

/-- 95_test_vectors.md BT2 (R471). -/
theorem test_BT2_add :
    (bt2.bpSparse, bt2.bpDense) =
      ([(0x0300, 0x04), (0x0301, 0x04), (0x10300, 0x02)], [(0x0300, 0x06), (0x0301, 0x04)]) := by decide

/-- 95_test_vectors.md BT3 (R472, R475). -/
theorem test_BT3_remove :
    let t := removeBreakpoint { kind := .read, address := 0x10300, endAddress := none, enabled := true } bt2
    (t.bpSparse, t.bpDense) = ([(0x0300, 0x04), (0x0301, 0x04)], [(0x0300, 0x04), (0x0301, 0x04)]) := by decide

/-- 95_test_vectors.md BT5 (R476): no hit in the main bank, a hit in the auxiliary one, a hit where banks need not
match. -/
theorem test_BT5_bank :
    (flagHit bt2 0x02 .read 0x0300, flagHit { bt2 with sw := 1 } 0x02 .read 0x0300,
      flagHit { bt2 with cfg := { bt2.cfg with bpBankExact := false } } 0x02 .read 0x0300) = (false, true, true) := by
  decide

/-- 95_test_vectors.md BT6 and BT7 (R480, R481): rejected and disabled descriptors change nothing. -/
theorem test_BT6_rejected :
    ([{ kind := .unknown "exec", address := 0x300, endAddress := none, enabled := true },
      { kind := .read, address := 0x301, endAddress := some 0x300, enabled := true },
      { kind := .pc, address := 0x1FFFF, endAddress := some 0x20000, enabled := true },
      { kind := .pc, address := 0x400, endAddress := none, enabled := false }].all fun d : BpDescriptor =>
      addBreakpoint d bt2 == bt2) = true := by decide

/-- 95_test_vectors.md BP3 (R476): the write happens, and the halt is left for the boundary. -/
theorem test_BP3_write :
    answers
      (addBreakpoint { kind := .write, address := 0x0200, endAddress := none, enabled := true }
        { startAt 0x080A [0x8D, 0x00, 0x02] [] with a := 0x0F })
      (fun t => t.memByte 0x0200 == 0x0F && t.pendingHalt == some { reason := .breakpoint, address := none }) =
      true := by decide

/-- 95_test_vectors.md BP4 (R478): an instruction fetch is exempt. -/
theorem test_BP4_fetch :
    answers
      (addBreakpoint { kind := .read, address := 0x0804, endAddress := some 0x0806, enabled := true }
        (startAt 0x0804 [0x18] []))
      (fun t => t.pendingHalt == none && t.pc == 0x0805) = true := by decide

/-- 95_test_vectors.md BP6 (R479). -/
theorem test_BP6_brk :
    answers
      { startAt 0x0604 [0x00, 0xEA] [(0xFFFF, 0x90)] with cfg := { Config.standard with breakOnBrk := true } }
      (fun t => t.pc == 0x9000 && t.pendingHalt == some { reason := .brk, address := some 0x9000 }) = true := by
  decide

/-! ### Controller, channel and disassembler -/

/-- The golden program of 95_test_vectors.md L1, Paused, with the reset vector of CR3. -/
def golden : State :=
  { startAt 0x0800 [0xA9, 0x01, 0x8D, 0x00, 0x02, 0x4C, 0x00, 0x08] [(0xFFFD, 0x08)] with
    ctrl := .paused none, inTick := false }

/-- 95_test_vectors.md CH1 (R45, R494): one step command, and what it publishes and emits (R490). -/
theorem test_CH1_step :
    obeys golden .step (fun t =>
      t.channel == { a := 0x01, x := 0, y := 0, sp := 0xFD, p := 0x34, pcLo := 0x02, pcHi := 0x08 } &&
        t.ctrl == .paused (some .step) &&
        t.events == [.halted (.pause .step) 0x0802, .tickCompleted 2]) = true := by decide

/-- 95_test_vectors.md SP3 (R490). -/
theorem test_SP3_step_hit :
    obeys
      (addBreakpoint { kind := .write, address := 0x0200, endAddress := none, enabled := true }
        { golden with pc := 0x0802 })
      .step (fun t => t.ctrl == .paused (some .breakpoint) && t.pc == 0x0805) = true := by decide

/-- 95_test_vectors.md CR2 (R489): the boundary after a pause request. -/
theorem test_CR2_pause :
    answers { golden with ctrl := .running, inTick := true, pauseReq := true }
      (fun t => t.ctrl == .paused none && t.events == []) = true := by decide

/-- 95_test_vectors.md CR3 (R491, R520). -/
theorem test_CR3_cold_reset :
    obeys { golden with ctrl := .halted .illegalOpcode, a := 9, x := 9, p := fl 0b111011 } (.reset true) (fun t =>
      t.a == 0 && t.x == 0 && t.sp == 0xFD && t.p == fl 0b000100 && t.pc == 0x0800 && t.ctrl == .paused none) =
      true := by decide

/-- 95_test_vectors.md CR4 (R522). -/
theorem test_CR4_warm_reset :
    obeys { golden with a := 0x42, p := fl 0b000000, pc := 0x1234 } (.reset false)
      (fun t => t.a == 0x42 && !t.p.i && t.pc == 0x0800 && t.ctrl == .paused none) = true := by decide

/-- The configuration of CR5. -/
def cr5 : Config :=
  { Config.standard with
    chunks :=
      [{ bank := 0, addr := 0x0800, payload := .hex ['A', '9', '0', '1', '8', 'd', '0', '0'] },
        { bank := 0, addr := 0xFFFC, payload := .bytes [0x00, 0x08] }] }

/-- 95_test_vectors.md CR5 (R486, R525), with the first four bytes of its hex string. -/
theorem test_CR5_init :
    obeys State.reset (.init cr5) (fun t =>
      t.mem == [(0x0800, 0xA9), (0x0801, 0x01), (0x0802, 0x8D), (0xFFFD, 0x08)] && t.pc == 0x0800 &&
        t.ctrl == .stopped) = true := by decide

/-- The configuration CR5 rejects: an odd number of hexadecimal digits. -/
def cr5Odd : Config :=
  { Config.standard with chunks := [{ bank := 0, addr := 0x0800, payload := .hex ['A', '9', '0'] }] }

/-- 95_test_vectors.md CR5: the odd hex string is rejected. -/
theorem test_CR5_rejected : obeys State.reset (.init cr5Odd) (fun t => t == State.reset) = true := by decide

/-- 95_test_vectors.md CH2 (R496, R34): the flags, and the low byte of PC alone. -/
theorem test_CH2_host_write :
    (obeys { golden with pc := 0x0812 } (.writeChannel 4 0x00) (fun t =>
        t.p == fl 0 && t.channel == golden.channel && t.publish.channel.p == 0x30) &&
      obeys { golden with pc := 0x0812 } (.writeChannel 5 0x00) fun t => t.pc == 0x0800) = true := by decide

/-- R492: the budget of a tick of a sixtieth of a second at 1 MHz. -/
theorem test_budget : tickBudget 1000000 { num := 1, den := 1 } { num := 1, den := 60 } = 16666 := by decide

/-- 95_test_vectors.md DS1 (R500). -/
theorem test_DS1_invalid :
    decodeOne .w65c02s (debugRead (startAt 0x0500 [0x02] [])) 0x0500 =
      some { address := 0x0500, raw := [0x02], instr := none, length := 1, cycles := 1 } := by decide

/-- 95_test_vectors.md DS3 and the row after it (R502). -/
theorem test_DS3_previous : (golden.previousInstr 0x0805, golden.previousInstr 0x0802) = (0x0802, 0x0800) := by decide

/-- 95_test_vectors.md DS5 (R502). -/
theorem test_DS5_previous : (startAt 0x2000 [0xAD, 0xEA, 0xEA, 0x60] []).previousInstr 0x2003 = 0x2002 := by decide

/-- 95_test_vectors.md DS6 (R503). -/
theorem test_DS6_fallback : (startAt 0x3000 (List.replicate 12 0x02) []).previousInstr 0x300C = 0x300B := by decide

/-! ### Witnesses: states and operands that meet the hypotheses of the statements -/

/-- DecodeOfEncode: a well-formed instruction of the smallest and of the largest variant. -/
theorem witness_decode_of_encode :
    Instr.wf .nmos6502 (.jmpInd 0xFFFF) = true ∧ Instr.wf .w65c02s (.bbs7 0xFF 0x80) = true := by decide

/-- DecodedBytesAreTheEncoding: bytes that decode, with a byte left over. -/
theorem witness_decoded_bytes : decode .r65c02 [0xFF, 0xFF, 0x80, 0x00] = .ok (.bbs7 0xFF 0x80, [0x00]) := by decide

/-- WritesReachLaterReads: a write, read back at its own address and at the last one. -/
theorem witness_writes : ∃ t, Memory.wf State.reset.cfg.initFill State.reset.mem ∧
    memWrite 0x0000 0x5A State.reset = .done () t ∧ t.phys .read 0x0000 < State.reset.cfg.memSize ∧
    t.phys .read 0xFFFF < State.reset.cfg.memSize :=
  ⟨_, by decide, rfl, by decide, by decide⟩

/-- The statements over machines whose map stays in range: the standard machine is one, without soft switches. -/
theorem witness_in_range : State.reset.cfg.mapsInRange ∧ State.reset.cfg.switchDecode = [] := ⟨standard_mapsInRange, rfl⟩

/-- The statements over plain machines: the standard machine is one, and its memory is canonical. -/
theorem witness_plain : State.reset.cfg.plain ∧ Memory.wf State.reset.cfg.initFill State.reset.mem :=
  ⟨standard_plain, by decide⟩

/-- The same on NMOS, for the clauses on that variant. -/
theorem witness_nmos : nmos.variant = .nmos6502 ∧ nmos.mapsInRange :=
  ⟨rfl, plain_mapsInRange ⟨rfl, rfl, rfl, Nat.le_refl _⟩⟩

/-- EveryInstructionCompletes, its costs: a crossed page in a row that takes the penalty, and in a store, which does
not; the shifts differ by variant. -/
theorem witness_penalty :
    takesPagePenalty .nmos6502 (Instr.ldaIzy 0xFF).mnemonic (Instr.ldaIzy 0xFF).operand.mode ∧
    ¬ takesPagePenalty .w65c02s (Instr.staIzy 0xFF).mnemonic (Instr.staIzy 0xFF).operand.mode ∧
    takesPagePenalty .c65c02 (Instr.rorAbx 0xFFFF).mnemonic (Instr.rorAbx 0xFFFF).operand.mode ∧
    ¬ takesPagePenalty .nmos6502 (Instr.rorAbx 0xFFFF).mnemonic (Instr.rorAbx 0xFFFF).operand.mode := by
  simp [takesPagePenalty, penaltyReaders, shiftMnemonics, Instr.mnemonic, Instr.desc, Operand.mode, Instr.operand, Place.mode]

/-- The machine of OR1 about to fetch its opcode out of range. -/
def fetchOutOfRange : State := { or1 with pc := 0x8000 }

/-- OutOfRangeHaltsTheEngine: a load, a store and an opcode fetch out of range, at the first such address, and an access
at the last address in range. -/
theorem witness_out_of_range :
    (∃ r, exec (.ldaAbs 0x9000) or1 = .fault r) ∧
    (or1.cfg.memSize ≤ or1.phys .read 0x8000 ∧ or1.cfg.memSize ≤ or1.phys .write 0x8000 ∧
      or1.phys .read 0x7FFF < or1.cfg.memSize) ∧
    (Ready fetchOutOfRange ∧ fetchOutOfRange.cfg.memSize ≤ fetchOutOfRange.phys .read fetchOutOfRange.pc) ∧
    (∃ ea u, effAddr (.abs 0x8000) (or1.advance (.ldaAbs 0x8000)) = .done ea u ∧
      or1.cfg.memSize ≤ u.phys .read ea.addr) ∧
    ∃ ea u, effAddr (.abs 0x8000) (or1.advance (.staAbs 0x8000)) = .done ea u ∧
      or1.cfg.memSize ≤ u.phys .write ea.addr :=
  ⟨⟨_, rfl⟩, by decide, ⟨⟨⟨rfl, rfl, rfl, rfl, rfl, rfl, by decide⟩, ⟨rfl, rfl, rfl⟩, .inl rfl⟩, by decide⟩,
    ⟨_, _, rfl, by decide⟩, ⟨_, _, rfl, by decide⟩⟩

/-- OperandBytes: an immediate operand, and a byte at the last address. -/
theorem witness_operand :
    (∃ t m, readSource (.imm 0xFF) State.reset = .done m t) ∧
    ∃ t m, readSource (.mem (.abs 0xFFFF)) State.reset = .done m t :=
  ⟨⟨_, _, rfl⟩, ⟨_, _, rfl⟩⟩

/-- LoadsComplete, StoresComplete, TransfersComplete: an immediate and an indexed load, a store, a transfer. -/
theorem witness_loads_stores :
    (loadTarget (Instr.ldaImm 0x00).mnemonic = some .a ∧ (Instr.ldaImm 0x00).operand.source? = some (.imm 0x00)) ∧
    (loadTarget (Instr.ldxAby 0xFFFF).mnemonic = some .x ∧
      (Instr.ldxAby 0xFFFF).operand.source? = some (.mem (.aby 0xFFFF))) ∧
    ((storeValue (Instr.staIzy 0xFF).mnemonic).isSome ∧ (Instr.staIzy 0xFF).operand.place? = some (.izy 0xFF)) ∧
    transferPair Instr.tsx.mnemonic = some (.sp, .x) ∧ State.reset.cfg.mapsInRange :=
  ⟨by decide, by decide, by decide, by decide, standard_mapsInRange⟩

/-- PushesComplete, PullsComplete: a push and a pull. -/
theorem witness_stack :
    (pushValue Instr.php.mnemonic).isSome ∧ pullTarget Instr.pla.mnemonic = some .a ∧ State.reset.cfg.mapsInRange :=
  ⟨by decide, by decide, standard_mapsInRange⟩

/-- AddWithCarryCompletes, SubtractWithBorrowCompletes, ComparesComplete, LogicCompletes: one form of each. -/
theorem witness_arithmetic :
    ((Instr.adcImm 0x00).mnemonic = .adc ∧ (Instr.adcImm 0x00).operand.source? = some (.imm 0x00)) ∧
    ((Instr.sbcAbx 0xFFFF).mnemonic = .sbc ∧ (Instr.sbcAbx 0xFFFF).operand.source? = some (.mem (.abx 0xFFFF))) ∧
    (compareSubject (Instr.cpyImm 0xFF).mnemonic = some .y ∧
      (Instr.cpyImm 0xFF).operand.source? = some (.imm 0xFF)) ∧
    ((logicOp (Instr.eorIzp 0xFF).mnemonic).isSome ∧
      (Instr.eorIzp 0xFF).operand.source? = some (.mem (.izp 0xFF))) ∧
    State.reset.cfg.mapsInRange :=
  ⟨by decide, by decide, by decide, by decide, standard_mapsInRange⟩

/-- DecimalAddition, DecimalSubtraction: the ends of the range of two digits. -/
theorem witness_digits : (0 : Nat) < 100 ∧ 99 < 100 := by decide

/-- IncrementsComplete: the memory form, the accumulator form and the index form. -/
theorem witness_increments :
    ((incDecOp (Instr.incZpx 0xFF).mnemonic).isSome ∧
      (Instr.incZpx 0xFF).operand.target? = some (.mem (.zpx 0xFF))) ∧
    ((incDecOp Instr.decAcc.mnemonic).isSome ∧ Instr.decAcc.operand.target? = some .acc) ∧
    (indexStep Instr.dey.mnemonic).isSome ∧ State.reset.cfg.mapsInRange :=
  ⟨by decide, by decide, by decide, standard_mapsInRange⟩

/-- BitTestCompletes, ShiftsComplete, BitChangesComplete: one form of each clause. -/
theorem witness_bits :
    ((Instr.bitAbx 0xFFFF).mnemonic = .bit ∧ (Instr.bitAbx 0xFFFF).operand = .mem (.abx 0xFFFF)) ∧
    ((shiftOp Instr.rorAcc.mnemonic).isSome ∧ Instr.rorAcc.operand.target? = some .acc) ∧
    ((shiftOp (Instr.aslAbx 0xFFFF).mnemonic).isSome ∧
      (Instr.aslAbx 0xFFFF).operand.target? = some (.mem (.abx 0xFFFF))) ∧
    ((testAndSetOp (Instr.tsbAbs 0xFFFF).mnemonic).isSome ∧
      (Instr.tsbAbs 0xFFFF).operand.place? = some (.abs 0xFFFF)) ∧
    (resetBit (Instr.rmb7 0xFF).mnemonic = some 7 ∧ (Instr.rmb7 0xFF).operand = .mem (.zp 0xFF)) ∧
    (setBit (Instr.smb0 0x00).mnemonic = some 0 ∧ (Instr.smb0 0x00).operand = .mem (.zp 0x00)) ∧
    State.reset.cfg.mapsInRange :=
  ⟨by decide, by decide, by decide, by decide, by decide, by decide, standard_mapsInRange⟩

/-- BranchesComplete, OtherBranchesComplete, FlagAndSystemInstructionsComplete: the farthest branches, and a flag instruction. -/
theorem witness_branches :
    ((branchCondition (Instr.bcc 0x7F).mnemonic).isSome ∧ (Instr.bcc 0x7F).operand = .rel 0x7F) ∧
    (bitBranch (Instr.bbs7 0xFF 0x80).mnemonic = some (7, true) ∧ (Instr.bbs7 0xFF 0x80).operand = .zpr 0xFF 0x80) ∧
    (flagOp Instr.clv.mnemonic).isSome ∧ State.reset.cfg.mapsInRange :=
  ⟨by decide, by decide, by decide, standard_mapsInRange⟩

/-- ExceptionEntry: the two vectors. -/
theorem witness_vectors : nmiVector = 0xFFFA ∧ irqVector = 0xFFFE := by decide

/-- A machine about to run NOP, with no interrupt and no breakpoint. -/
def atNop : State := startAt 0x0200 [0xEA] []

/-- Its boundary is open. -/
theorem open_nop : BoundaryOpen atNop := ⟨rfl, rfl, rfl, rfl, rfl, rfl, by decide⟩

/-- StepRunsDecodedInstruction: the machine is ready and the bytes at PC are the encoding of NOP. -/
theorem witness_step_runs : ∃ u, Ready atNop ∧ Instr.wf atNop.cfg.variant .nop = true ∧
    fetchBytes atNop.pc Instr.nop.length atNop.atFetch = .done (encode .nop) u :=
  ⟨_, ⟨open_nop, ⟨rfl, rfl, rfl⟩, .inl rfl⟩, by decide, rfl⟩

/-- BoundaryOrder: a state for each of its clauses; only the named fields differ from the machine about to run NOP. -/
theorem witness_boundary_order :
    (atNop.commands = [] ∧ atNop.inTick = true ∧ atNop.fault = none ∧ atNop.stopped = false ∧
      atNop.pendingHalt = none ∧ atNop.pauseReq = false) ∧
    ({ atNop with stopped := true } : State).stopped = true ∧
    ({ atNop with fault := some (.outOfRange 0x10000) } : State).fault.isSome = true ∧
    ({ atNop with pendingHalt := some { reason := .brk, address := none } } : State).pendingHalt =
      some { reason := .brk, address := none } ∧
    ({ atNop with pauseReq := true } : State).pauseReq = true ∧
    ({ atNop with budget := 0 } : State).budget ≤ atNop.tickCycles := by decide

/-- InterruptsTaken: a latched NMI with an IRQ beside it, and an IRQ alone. -/
theorem witness_interrupts :
    (BoundaryOpen { iv1 with nmiLatch := true } ∧ (true || iv1.pinsNow.nmiEdge) = true) ∧
    (BoundaryOpen iv1 ∧ (iv1.nmiLatch || iv1.pinsNow.nmiEdge) = false ∧ iv1.pinsNow.irqLine = true ∧
      iv1.p.i = false) ∧
    iv1.cfg.mapsInRange :=
  ⟨⟨⟨rfl, rfl, rfl, rfl, rfl, rfl, by decide⟩, rfl⟩, ⟨⟨rfl, rfl, rfl, rfl, rfl, rfl, by decide⟩, rfl, rfl, rfl⟩,
    standard_mapsInRange⟩

/-- A machine that waits while a masked IRQ is asserted. -/
def masked : State := { iv1 with waiting := true, p := fl 0b000100 }

/-- WaitForInterrupt: a machine that waits with the lines quiet, and one with a masked IRQ. -/
theorem witness_wait :
    (BoundaryOpen { atNop with waiting := true } ∧ (atNop.nmiLatch || atNop.pinsNow.nmiEdge) = false ∧
      atNop.pinsNow.irqLine = false) ∧
    (BoundaryOpen masked ∧ masked.waiting = true ∧ (masked.nmiLatch || masked.pinsNow.nmiEdge) = false ∧
      masked.pinsNow.irqLine = true ∧ masked.p.i = true) :=
  ⟨⟨⟨rfl, rfl, rfl, rfl, rfl, rfl, by decide⟩, rfl, rfl⟩,
    ⟨⟨rfl, rfl, rfl, rfl, rfl, rfl, by decide⟩, rfl, rfl, rfl, rfl⟩⟩

/-- InvalidOpcodePolicies: the byte 02 at PC, in the strict machine and in the lenient one. -/
theorem witness_invalid : ∃ u, Ready (startAt 0x0500 [0x02] []) ∧
    fetch 0x0500 (startAt 0x0500 [0x02] []).atFetch = .done 0x02 u ∧ opcodeLength .w65c02s 0x02 = none ∧
    Config.standard.invalidPolicy = .strict ∧
    ({ Config.standard with invalidPolicy := .lenient } : Config).invalidPolicy = .lenient :=
  ⟨_, ⟨⟨rfl, rfl, rfl, rfl, rfl, rfl, by decide⟩, ⟨rfl, rfl, rfl⟩, .inl rfl⟩, rfl, by decide, rfl, rfl⟩

/-- A machine at a PC breakpoint, with a read breakpoint set as well. -/
def atBreakpoint : State :=
  addBreakpoint { kind := .read, address := 0x0300, endAddress := some 0x0301, enabled := true }
    (addBreakpoint { kind := .pc, address := 0x0200, endAddress := none, enabled := true }
      { atNop with skipPcBp := false })

/-- PcBreakpointPauses: the machine at its breakpoint, with and without an exact bank. -/
theorem witness_pc_breakpoint :
    BoundaryOpen atBreakpoint ∧ Uninterrupted atBreakpoint ∧ atBreakpoint.skipPcBp = false ∧
    atBreakpoint.dense atBreakpoint.pc.toNat &&& 0x01 ≠ 0 ∧
    atBreakpoint.sparse (atBreakpoint.phys .read atBreakpoint.pc) &&& 0x01 ≠ 0 ∧
    ({ atBreakpoint.cfg with bpBankExact := false } : Config).bpBankExact = false :=
  ⟨⟨rfl, rfl, rfl, rfl, rfl, rfl, by decide⟩, ⟨rfl, rfl, rfl⟩, by decide, by decide, by decide, rfl⟩

/-- StepCommandRunsOne: a step command, and a run of its instruction. -/
theorem witness_step_command : ∃ u t,
    ({ golden with commands := [.now .step] } : State).commands = .now .step :: [] ∧ golden.ctrl = .paused none ∧
    Uninterrupted golden ∧ Instr.wf golden.cfg.variant (.ldaImm 0x01) = true ∧
    fetchBytes golden.pc (Instr.ldaImm 0x01).length
        { golden with commands := [], tickCycles := 0, pins := golden.pins.tail } = .done (encode (.ldaImm 0x01)) u ∧
    exec (.ldaImm 0x01) u = .next t ∧ Instr.ldaImm 0x01 ≠ .stp :=
  ⟨_, _, rfl, rfl, ⟨rfl, rfl, rfl⟩, by decide, rfl, rfl, by decide⟩

/-- StepCommandRunsOne, its Halted endings: STP, and a load from out of range. -/
theorem witness_step_halted :
    (∃ u t,
      fetchBytes 0x0500 Instr.stp.length { startAt 0x0500 [0xDB] [] with ctrl := .paused none, inTick := false } =
          .done (encode .stp) u ∧ exec .stp u = .next t) ∧
    ∃ u p h,
      Uninterrupted or1 ∧ Instr.wf or1.cfg.variant (.ldaAbs 0x9000) = true ∧
      fetchBytes or1.pc (Instr.ldaAbs 0x9000).length { or1 with ctrl := .paused none, inTick := false } =
          .done (encode (.ldaAbs 0x9000)) u ∧ exec (.ldaAbs 0x9000) u = .fault (.outOfRange p h) :=
  ⟨⟨_, _, rfl, rfl⟩, _, _, _, ⟨rfl, rfl, rfl⟩, by decide, rfl, rfl⟩

/-- R490, R445: a step command whose load is out of range publishes the channel and reports the tick, with no cycle. -/
theorem test_step_out_of_range :
    stopsAt { or1 with ctrl := .paused none, inTick := false, commands := [.now .step] } 0x19000 (fun t =>
      t.ctrl == .halted .outOfRange && t.channel.a == 0x77 && t.channel.pcLo == 0x03 && t.channel.pcHi == 0x05 &&
        t.events == [.halted (.halt .outOfRange) 0x0500, .tickCompleted 0]) = true := by decide

/-- A machine with breakpoints, in a tick, has the invariant. -/
theorem inv_breakpoint : Inv atBreakpoint := by
  have h0 : TableOk ({ atNop with skipPcBp := false } : State) := empty_tableOk rfl rfl
  have h := (addBreakpoint_spec { kind := .read, address := 0x0300, endAddress := some 0x0301, enabled := true }
    (addBreakpoint_spec { kind := .pc, address := 0x0200, endAddress := none, enabled := true } h0).1).1
  exact ⟨by decide, by decide, h.denseForm, h.denseBound, h.sparseForm, h.sparseBound, h.tables, by decide, by decide,
    by decide, by decide⟩

/-- The same machine Halted at an invalid opcode has the invariant. -/
theorem inv_halted : Inv { atBreakpoint with ctrl := .halted .illegalOpcode, inTick := false } :=
  { inv_breakpoint with faulted := nofun, stop := by decide, pausing := nofun, ticking := nofun }

/-- BreakpointEdits: an accepted descriptor of one address and of a range to the last address; an unknown kind, an end
before the address and an end at `MEM_SIZE`. -/
theorem witness_descriptors :
    (kindFlags .access 0x06 ∧ (0 : Nat) ≤ (none : Option Nat).getD 0 ∧ 0 < atBreakpoint.cfg.memSize) ∧
    (kindFlags .pc 0x01 ∧ 0xFFFE ≤ (some 0xFFFF).getD 0xFFFE ∧ (some 0xFFFF).getD 0xFFFE < atBreakpoint.cfg.memSize) ∧
    (∀ bits, ¬ kindFlags (.unknown "exec") bits) ∧
    (some 0x0300).getD 0x0301 < 0x0301 ∧ atBreakpoint.cfg.memSize ≤ (none : Option Nat).getD 0x10000 :=
  ⟨⟨rfl, by decide, by decide⟩, ⟨rfl, by decide, by decide⟩, fun _ h => h, by decide, by decide⟩

/-- The bytes of the chunks of CR5. -/
def cr5Loads : List (Chunk × List Byte) :=
  [({ bank := 0, addr := 0x0800, payload := .hex ['A', '9', '0', '1', '8', 'd', '0', '0'] }, [0xA9, 0x01, 0x8D, 0x00]),
    ({ bank := 0, addr := 0xFFFC, payload := .bytes [0x00, 0x08] }, [0x00, 0x08])]

/-- Its chunks are accepted with those bytes. -/
theorem cr5_accepted : ∀ load ∈ cr5Loads, load.1.accepted cr5 load.2 := by
  intro load h
  simp only [cr5Loads, List.mem_cons, List.not_mem_nil, or_false] at h
  rcases h with rfl | rfl
  · refine ⟨by decide, ?_, by decide⟩
    exact ⟨0xA, 9, _, .inl rfl, .inl rfl, ⟨0, 1, _, .inl rfl, .inl rfl, ⟨8, 0xD, _, .inl rfl, .inr rfl,
      ⟨0, 0, _, .inl rfl, .inl rfl, rfl, rfl⟩, rfl⟩, rfl⟩, rfl⟩
  · exact ⟨by decide, rfl, by decide⟩

/-- InitLoadsMemory: an accepted configuration whose init completes, and a command of it between ticks. -/
theorem witness_init :
    cr5Loads.map (·.1) = cr5.chunks ∧ (∀ load ∈ cr5Loads, load.1.accepted cr5 load.2) ∧ cr5.mapsInRange ∧
    (∃ t, init cr5 State.reset = .next t) ∧ State.reset.inTick = false :=
  ⟨rfl, cr5_accepted, plain_mapsInRange ⟨rfl, rfl, rfl, Nat.le_refl _⟩, ⟨_, rfl⟩, rfl⟩

/-- InitLoadsMemory: a chunk rejected for its digits, one for its bank and one for its last byte. -/
theorem witness_init_rejected :
    (∃ c ∈ cr5Odd.chunks, ∀ bytes, ¬ c.accepted cr5Odd bytes) ∧
    (∀ bytes, ¬ Chunk.accepted cr5 { bank := 1, addr := 0, payload := .bytes [] } bytes) ∧
    ∀ bytes, ¬ Chunk.accepted cr5 { bank := 0, addr := 0xFFFF, payload := .bytes [0x00, 0x00] } bytes := by
  refine ⟨⟨_, List.mem_cons_self, ?_⟩, fun _ h => absurd h.1 (by decide), ?_⟩
  · rintro bytes ⟨_, ⟨_, _, _, _, _, h, _⟩, _⟩
    exact h
  · rintro bytes ⟨_, rfl, h⟩
    exact absurd (h 1 (by decide)) (by decide)

/-- HaltedIsTerminal: a Halted machine with the invariant, whose step answers a next state. -/
theorem witness_halted :
    Inv { atBreakpoint with ctrl := .halted .illegalOpcode, inTick := false } ∧
    ∃ t, step { atBreakpoint with ctrl := .halted .illegalOpcode, inTick := false } = .next t :=
  ⟨inv_halted, _, rfl⟩

/-- ConfigurationIsFixed, StepKeepsInv: steps that answer a next state, one from a state with the invariant, one an
init. -/
theorem witness_steps :
    (Inv atBreakpoint ∧ ∃ t, step atBreakpoint = .next t) ∧
    ∃ t, step { State.reset with commands := [.now (.init cr5)] } = .next t :=
  ⟨⟨inv_breakpoint, _, rfl⟩, ⟨_, rfl⟩⟩

/-- HostEditsAndCommands: a Paused, a Running and a Halted machine, a byte in range and one out of range to write, and a
Running machine between two ticks. -/
theorem witness_host_edits :
    (golden.ctrl ≠ .running ∧ golden.phys .write 0xFFFF < golden.cfg.memSize) ∧
    or1.cfg.memSize ≤ or1.phys .write 0x8000 ∧ atNop.ctrl = .running ∧ golden.ctrl = .paused none ∧
    ({ golden with ctrl := .halted .stopped } : State).ctrl = .halted .stopped ∧
    (golden.commands = [] ∧ golden.inTick = false ∧ ({ golden with ctrl := .running } : State).ctrl = .running) ∧
    0 < golden.speed.den ∧ 0 < golden.tickLength.den := by decide

/-- BreakpointsOnlyFlag: a read at a breakpoint and a write beside one. -/
theorem witness_flagging :
    (∃ v t, memRead 0x0301 atBreakpoint = .done v t) ∧ ∃ t, memWrite 0x0302 0xFF atBreakpoint = .done () t :=
  ⟨⟨_, _, rfl⟩, ⟨_, rfl⟩⟩

/-- BackwardResynchronisation: before $0805 of the golden program distance 3 lands, in one instruction; before $2003 of DS5
distance 1 does, and no distance is smaller. -/
theorem witness_lands :
    ForwardLands .w65c02s (debugRead golden) (0x0805 - BitVec.ofNat 16 3) 3 0x0802 ∧
    ForwardLands .w65c02s (debugRead (startAt 0x2000 [0xAD, 0xEA, 0xEA, 0x60] [])) (0x2003 - BitVec.ofNat 16 1) 1
      0x2002 :=
  ⟨.last (l := { address := 0x0802, raw := [0x8D, 0x00, 0x02], instr := some (.staAbs 0x0200), length := 3, cycles := 4 })
      (by decide) rfl,
    .last (l := { address := 0x2002, raw := [0xEA], instr := some .nop, length := 1, cycles := 2 }) (by decide) rfl⟩

/-- BackwardResynchronisation: two instructions of the golden program land together, five bytes on. -/
theorem witness_lands_further : ForwardLands .w65c02s (debugRead golden) (0x0805 - BitVec.ofNat 16 5) 5 0x0802 :=
  .more (dist := 3)
    (l := { address := 0x0800, raw := [0xA9, 0x01], instr := some (.ldaImm 0x01), length := 2, cycles := 2 })
    (by decide) rfl witness_lands.1

/-- A forward stream begins with a valid instruction. -/
theorem forwardLands_first {v : Variant} {readByte : Addr → Option Byte} {a b : Addr} {dist : Nat}
    (h : ForwardLands v readByte a dist b) : (decodeOne v readByte a).all (fun l => l.instr.isSome) = true := by
  cases h with
  | last h hi => rw [h]; exact hi
  | more h hi _ => rw [h]; exact hi

/-- BackwardResynchronisation: in a stream of invalid opcodes no distance of the window lands. -/
theorem witness_lands_nowhere (d : Nat) (a : Addr) (h1 : 1 ≤ d) (h2 : d ≤ Config.standard.resyncWindow) :
    ¬ ForwardLands .w65c02s (debugRead (startAt 0x3000 (List.replicate 12 0x02) [])) (0x300C - BitVec.ofNat 16 d) d a := by
  intro h
  have hd : ∀ k, k < 12 → (decodeOne .w65c02s (debugRead (startAt 0x3000 (List.replicate 12 0x02) []))
      (0x300C - BitVec.ofNat 16 (k + 1))).all (fun l => l.instr.isSome) = false := by decide
  have h3 := hd (d - 1) (Nat.lt_of_lt_of_le (Nat.sub_lt h1 Nat.one_pos) h2)
  rw [Nat.sub_add_cancel h1, forwardLands_first h] at h3
  cases h3

/-- BackwardResynchronisation, its lines: the encoding of an instruction, and an opcode of none. -/
theorem witness_lines :
    readBytes (debugRead golden) 0x0802 (Instr.staAbs 0x0200).length = some (encode (.staAbs 0x0200)) ∧
    debugRead (startAt 0x0500 [0x02] []) 0x0500 = some 0x02 ∧
    ∀ i : Instr, i.wf .w65c02s = true → i.opcode ≠ 0x02 := by
  refine ⟨by decide, by decide, fun i _ => ?_⟩
  cases i <;> simp [Instr.opcode, Instr.desc]

/-- RegisterFrame, FlagFrame, MachineFrame, BreakpointsOnlyFlag: NOP writes nothing, BIT immediate neither N nor V, ASL
on memory not A, BRK on NMOS not D. -/
theorem witness_frames :
    (∃ t, exec .nop State.reset = .next t) ∧ (∃ t, exec (.bitImm 0xFF) State.reset = .next t) ∧
    (∃ t, exec (.aslZp 0xFF) State.reset = .next t) ∧ ∃ t, exec .brk { State.reset with cfg := nmos } = .next t :=
  ⟨⟨_, rfl⟩, ⟨_, rfl⟩, ⟨_, rfl⟩, ⟨_, rfl⟩⟩

/-- MemoryFrame: an instruction of each of its clauses, and the states its pushes leave. -/
theorem witness_memory_frame :
    Instr.nop.storesNothing = true ∧
    ((storeValue (Instr.staZp 0xFF).mnemonic).isSome = true ∧ (Instr.staZp 0xFF).operand = .mem (.zp 0xFF) ∧
      (∃ ea u, effAddr (.zp 0xFF) (State.reset.advance (.staZp 0xFF)) = .done ea u) ∧
      ∃ t, exec (.staZp 0xFF) State.reset = .next t) ∧
    ((Instr.incZp 0xFF).mnemonic ∈ modifyingMnemonics ∧ (Instr.incZp 0xFF).operand = .mem (.zp 0xFF) ∧
      (∃ m v, memRead 0x00FF (State.reset.advance (.incZp 0xFF)) = .done m v) ∧
      ∃ t, exec (.incZp 0xFF) State.reset = .next t) ∧
    ((pushValue Instr.pha.mnemonic).isSome = true ∧ ∃ t, exec .pha State.reset = .next t) ∧
    ((∃ u, push (hi (State.reset.pc + 2)) (State.reset.advance (.jsr 0xFFFF)) = .done () u) ∧
      ∃ t, exec (.jsr 0xFFFF) State.reset = .next t) ∧
    (∃ u w, push (hi (State.reset.pc + 2)) (State.reset.advance .brk) = .done () u ∧
      push (lo (State.reset.pc + 2)) u = .done () w) ∧
    ∃ t, exec .brk State.reset = .next t :=
  ⟨by decide, ⟨by decide, rfl, ⟨_, _, rfl⟩, ⟨_, rfl⟩⟩, ⟨by decide, rfl, ⟨_, _, rfl⟩, ⟨_, rfl⟩⟩, ⟨by decide, ⟨_, rfl⟩⟩,
    ⟨⟨_, rfl⟩, ⟨_, rfl⟩⟩, ⟨_, _, rfl, rfl⟩, ⟨_, rfl⟩⟩

end Sys2Proof.Tests
end

section
/-! SUPPORT. The invariant as three independent parts (memory, the breakpoint tables, the run state), and that every
step of the machine keeps it. -/

namespace Sys2Proof

namespace Machine

/-- Physical memory canonical and inside the physical space (R40). -/
structure MemoryOk (s : State) : Prop where
  form : Memory.wf s.cfg.initFill s.mem
  bound : ∀ c ∈ s.mem, c.1 < s.cfg.memSize

/-- `CTRL` in agreement with the run state (R43, R412, R445). -/
structure RunOk (s : State) : Prop where
  faulted : s.fault.isSome → s.ctrl = .halted .outOfRange
  stop : s.stopped = true ↔ s.ctrl = .halted .stopped
  pausing : s.pauseReq = true → s.ctrl = .running
  ticking : s.inTick = true → s.ctrl = .running ∨ s.ctrl = .halted .stopped

theorem inv_iff {s : State} : Inv s ↔ MemoryOk s ∧ TableOk s ∧ RunOk s := by
  constructor
  · rintro ⟨mf, mb, df, db, sf, sb, ta, fa, st, pa, ti⟩
    exact ⟨⟨mf, mb⟩, ⟨df, db, sf, sb, ta⟩, ⟨fa, st, pa, ti⟩⟩
  · rintro ⟨⟨mf, mb⟩, ⟨df, db, sf, sb, ta⟩, ⟨fa, st, pa, ti⟩⟩
    exact ⟨mf, mb, df, db, sf, sb, ta, fa, st, pa, ti⟩

/-! ### What each part depends on -/

theorem MemoryOk.congr {s t : State} (h : MemoryOk s) (hc : t.cfg = s.cfg) (hm : t.mem = s.mem) : MemoryOk t :=
  ⟨by rw [hc, hm]; exact h.form, by rw [hc, hm]; exact h.bound⟩

theorem TableOk.congr {s t : State} (h : TableOk s) (hc : t.cfg = s.cfg) (hd : t.bpDense = s.bpDense)
    (hs : t.bpSparse = s.bpSparse) : TableOk t := by
  obtain ⟨df, db, sf, sb, ta⟩ := h
  refine ⟨by rwa [hd], by rwa [hd], by rwa [hs], by rwa [hs, hc], ?_⟩
  unfold tableAgrees State.dense State.sparse at ta ⊢
  rwa [hd, hs, hc]

theorem RunOk.congr {s t : State} (h : RunOk s) (hf : t.fault = s.fault) (hc : t.ctrl = s.ctrl)
    (hs : t.stopped = s.stopped) (hp : t.pauseReq = s.pauseReq) (hi : t.inTick = s.inTick) : RunOk t :=
  ⟨by rw [hf, hc]; exact h.faulted, by rw [hs, hc]; exact h.stop, by rw [hp, hc]; exact h.pausing,
    by rw [hi, hc]; exact h.ticking⟩

/-! ### What the run state excludes, and the states that agree with `CTRL` -/

/-- No fault is recorded while `CTRL` is not Halted(out-of-range). -/
theorem RunOk.fault_none {s : State} (h : RunOk s) (hc : s.ctrl ≠ .halted .outOfRange) : s.fault = none := by
  cases hf : s.fault with
  | none => rfl
  | some r => exact absurd (h.faulted (by simp [hf])) hc

theorem RunOk.not_stopped {s : State} (h : RunOk s) (hc : s.ctrl ≠ .halted .stopped) : s.stopped = false :=
  Bool.eq_false_iff.2 fun hs => hc (h.stop.1 hs)

theorem RunOk.no_pauseReq {s : State} (h : RunOk s) (hc : s.ctrl ≠ .running) : s.pauseReq = false :=
  Bool.eq_false_iff.2 fun hp => hc (h.pausing hp)

theorem RunOk.not_inTick {s : State} (h : RunOk s) (hr : s.ctrl ≠ .running) (hs : s.ctrl ≠ .halted .stopped) :
    s.inTick = false :=
  Bool.eq_false_iff.2 fun hi => (h.ticking hi).elim hr hs

/-- A state with no fault, STP or tick behind it agrees with every `CTRL` but Running and Halted(stopped). -/
theorem RunOk.of_idle {s : State} (hf : s.fault = none) (hs : s.stopped = false) (hp : s.pauseReq = false)
    (hi : s.inTick = false) (hc : s.ctrl ≠ .halted .stopped) : RunOk s :=
  ⟨by simp [hf], by simp [hs, hc], by simp [hp], by simp [hi]⟩

/-- A Running state agrees with a tick and with a pause request. -/
theorem RunOk.of_running {s : State} (hf : s.fault = none) (hs : s.stopped = false) (hc : s.ctrl = .running) :
    RunOk s :=
  ⟨by simp [hf], by simp [hs, hc], fun _ => hc, fun _ => .inl hc⟩

/-- The moves of the engine keep `CTRL` in agreement: it goes on, stops at STP, or leaves the tick. -/
theorem Moves.runOk {s t : State} (hm : Moves s t) (h : RunOk s) (hf : s.fault = none) (hs : s.stopped = false)
    (hp : s.pauseReq = false) : RunOk t := by
  have hf' : t.fault = none := hm.fault.trans hf
  have hp' : t.pauseReq = false := hm.pauseReq.trans hp
  rcases hm.ctrl with ⟨hc, hst, hi⟩ | ⟨hc, hst, _⟩ | ⟨hc, hst, hi⟩
  · exact h.congr hm.fault hc hst hm.pauseReq hi
  · exact ⟨by simp [hf'], by simp [hst, hc], by simp [hp'], fun _ => .inr hc⟩
  · refine .of_idle hf' (hst.trans hs) hp' hi ?_
    rcases hc with hc | hc <;> simp [hc]

/-- A move of the engine that begins outside a tick ends outside one. -/
theorem Moves.not_inTick {s t : State} (hm : Moves s t) (hi : s.inTick = false) : t.inTick = false := by
  rcases hm.ctrl with ⟨_, _, h⟩ | ⟨_, _, h⟩ | ⟨_, _, h⟩
  · exact h.trans hi
  · exact h.trans hi
  · exact h



/-! ### What a boundary, a step of the engine and the end of a host's step can come to -/

/-- What a boundary can come to (R170, R435): the tick is left after a fault or STP, or else a pending halt, a pause
request or the budget ends it, or `one_step` runs. -/
theorem boundary_next {s t : State} (h : boundary s = .next t) :
    t = { s.openBoundary with inTick := false } ∨
    s.fault = none ∧ s.stopped = false ∧
      ((∃ ph, t = takePendingHalt ph s.openBoundary) ∨ t = takePause s.openBoundary ∨ t = endTick s.openBoundary ∨
        oneStep (!s.skipPcBp) s.openBoundary = .next t) := by
  unfold boundary at h
  simp only at h
  split at h
  · cases h; exact .inl rfl
  · rename_i hlive
    simp only [Bool.or_eq_true, not_or, Bool.not_eq_true, Option.isSome_eq_false_iff,
      Option.isNone_iff_eq_none] at hlive
    refine .inr ⟨hlive.1, hlive.2, ?_⟩
    split at h
    · cases h; exact .inl ⟨_, rfl⟩
    · split at h
      · cases h; exact .inr (.inl rfl)
      · split at h
        · cases h; exact .inr (.inr (.inl rfl))
        · exact .inr (.inr (.inr h))

/-- The machine's own step: a turn of the loop in a tick, the next tick while Running, nothing otherwise. -/
theorem engineStep_next {s t : State} (h : engineStep s = .next t) :
    (s.inTick = true ∧ boundary s = .next t) ∨ (s.ctrl = .running ∧ t = beginTick s) ∨ t = s := by
  unfold engineStep at h
  split at h
  · rename_i hi
    exact .inl ⟨hi, h⟩
  · split at h <;> cases h
    · rename_i hc
      exact .inr (.inl ⟨hc, rfl⟩)
    all_goals exact .inr (.inr rfl)

/-- Closing a step touches `CTRL`, the channel, the pending halt and the events alone: Halted stays, anything else
pauses (R490). -/
theorem closeStep_spec (s : State) : ∃ c ph ch ev,
    closeStep s = { s with ctrl := c, pendingHalt := ph, channel := ch, events := ev } ∧
      (c = s.ctrl ∨ (∀ r, s.ctrl ≠ .halted r) ∧ ∃ r, c = .paused r) := by
  unfold closeStep
  simp only
  split
  case h_1 => exact ⟨_, _, _, _, rfl, .inl rfl⟩
  all_goals
    rename_i hc
    split <;> exact ⟨_, _, _, _, rfl, .inr ⟨by simp [hc], _, rfl⟩⟩

end Machine

open Machine

/-! ### Updates that keep the invariant -/

/-- An update that leaves memory and the tables keeps the invariant where it leaves `CTRL` in agreement. -/
theorem Inv.of_runOk {s t : State} (h : Inv s) (hr : RunOk t) (hc : t.cfg = s.cfg) (hm : t.mem = s.mem)
    (hd : t.bpDense = s.bpDense) (hs : t.bpSparse = s.bpSparse) : Inv t := by
  obtain ⟨hmem, htab, _⟩ := inv_iff.1 h
  exact inv_iff.2 ⟨hmem.congr hc hm, htab.congr hc hd hs, hr⟩

/-- A move of the engine keeps memory and the tables. -/
theorem Inv.of_moves {s t : State} (h : Inv s) (hm : Moves s t) (hr : RunOk t) : Inv t := by
  obtain ⟨hmem, htab, _⟩ := inv_iff.1 h
  exact inv_iff.2 ⟨⟨hm.wf hmem.form, hm.bound hmem.bound⟩, htab.congr hm.cfg hm.bpDense hm.bpSparse, hr⟩

/-- A change of the breakpoint table alone that keeps the table in agreement. -/
theorem Inv.of_table {s t : State} (h : Inv s) (ht : TableOk t)
    (he : t = { s with bpDense := t.bpDense, bpSparse := t.bpSparse }) : Inv t := by
  obtain ⟨hmem, _, hrun⟩ := inv_iff.1 h
  refine inv_iff.2 ⟨hmem.congr ?_ ?_, ht, hrun.congr ?_ ?_ ?_ ?_ ?_⟩ <;> rw [he]

/-! ### The engine keeps the invariant -/

theorem Inv.openBoundary {s : State} (h : Inv s) : Inv s.openBoundary :=
  h.of_runOk ⟨h.faulted, h.stop, by simp, h.ticking⟩ rfl rfl rfl rfl

theorem Inv.boundary {s t : State} (h : Inv s) (hi : s.inTick = true) (hb : boundary s = .next t) : Inv t := by
  obtain ⟨_, _, hrun⟩ := inv_iff.1 h.openBoundary
  rcases boundary_next hb with rfl | ⟨hf, hs, hb⟩
  · exact h.of_runOk ⟨h.faulted, h.stop, by simp, by simp⟩ rfl rfl rfl rfl
  · have hc : s.ctrl = .running := (h.ticking hi).resolve_right fun hc => by simp [h.stop.2 hc] at hs
    rcases hb with ⟨ph, rfl⟩ | rfl | rfl | hb
    · exact h.of_runOk (.of_idle hf hs rfl rfl (by simp [takePendingHalt])) rfl rfl rfl rfl
    · exact h.of_runOk (.of_idle hf hs rfl rfl (by simp [takePause])) rfl rfl rfl rfl
    · exact h.of_runOk (.of_running hf hs hc) rfl rfl rfl rfl
    · have hm := oneStep_moves hb
      exact h.openBoundary.of_moves hm (hm.runOk hrun hf hs rfl)

theorem Inv.engineStep {s t : State} (h : Inv s) (he : engineStep s = .next t) : Inv t := by
  rcases engineStep_next he with ⟨hi, hb⟩ | ⟨hc, rfl⟩ | rfl
  · exact h.boundary hi hb
  · exact h.of_runOk ⟨h.faulted, h.stop, h.pausing, fun _ => .inl hc⟩ rfl rfl rfl rfl
  · exact h

/-! ### The host's commands keep the invariant -/

/-- Both resets leave an idle machine with the memory and tables it had (R523, R524). -/
theorem reset_inv {s t : State} {cold : Bool} (hm : MemoryOk s) (ht : TableOk s) (h : reset cold s = .next t) :
    Inv t ∧ t.fault = none ∧ t.stopped = false ∧ t.pauseReq = false ∧ t.inTick = false := by
  obtain ⟨u, target, hu, rfl⟩ := reset_next h
  have hs : u.cfg = s.cfg ∧ u.mem = s.mem ∧ u.bpDense = s.bpDense ∧ u.bpSparse = s.bpSparse := by
    rw [hu]; cases cold <;> exact ⟨rfl, rfl, rfl, rfl⟩
  have hidle : u.fault = none ∧ u.stopped = false ∧ u.pauseReq = false ∧ u.inTick = false := by
    rw [hu]; exact ⟨rfl, rfl, rfl, rfl⟩
  obtain ⟨hc, hmem, hd, hsp⟩ := hs
  obtain ⟨hf, hst, hp, hi⟩ := hidle
  exact ⟨inv_iff.2 ⟨hm.congr hc hmem, ht.congr hc hd hsp, .of_idle hf hst hp hi (by simp)⟩, hf, hst, hp, hi⟩

theorem Inv.init {cfg : Config} {s t : State} (h : Inv s) (hi : init cfg s = .next t) : Inv t := by
  rcases init_next hi with ⟨_, rfl⟩ | ⟨m, r, hl, hr, rfl⟩
  · exact h
  · obtain ⟨hw, hb⟩ := loadChunks_spec hl ⟨.nil, nofun⟩ nofun
    obtain ⟨hinv, hf, hs, hp, ht⟩ := reset_inv ⟨hw, hb⟩ (empty_tableOk rfl rfl) hr
    exact hinv.of_runOk (.of_idle hf hs hp ht (by simp)) rfl rfl rfl rfl

theorem Inv.hostRun {s : State} (h : Inv s) (start : Option Addr) : Inv (hostRun start s) := by
  obtain ⟨_, _, hrun⟩ := inv_iff.1 h
  have run : ∀ t : State, s.ctrl ≠ .halted .outOfRange → s.ctrl ≠ .halted .stopped →
      t = { s with ctrl := .running, pc := t.pc, skipPcBp := t.skipPcBp } → Inv t := fun t ho hs ht => by
    have hr : RunOk t := by
      rw [ht]; exact .of_running (hrun.fault_none ho) (hrun.not_stopped hs) rfl
    refine h.of_runOk hr ?_ ?_ ?_ ?_ <;> rw [ht]
  unfold Machine.hostRun
  split
  case h_1 hc => cases start <;> exact run _ (by simp [hc]) (by simp [hc]) rfl
  case h_2 hc => cases start <;> exact run _ (by simp [hc]) (by simp [hc]) rfl
  all_goals exact h

theorem Inv.hostPause {s : State} (h : Inv s) : Inv (hostPause s) := by
  unfold Machine.hostPause
  split
  case h_1 hc => exact h.of_runOk ⟨h.faulted, h.stop, fun _ => hc, h.ticking⟩ rfl rfl rfl rfl
  all_goals exact h

theorem Inv.closeStep {s : State} (h : Inv s) (hp : s.pauseReq = false) (hi : s.inTick = false) :
    Inv (closeStep s) := by
  obtain ⟨_, _, hrun⟩ := inv_iff.1 h
  obtain ⟨c, ph, ch, ev, he, hc⟩ := closeStep_spec s
  rw [he]
  refine h.of_runOk ?_ rfl rfl rfl rfl
  rcases hc with rfl | ⟨hn, r, rfl⟩
  · exact hrun.congr rfl rfl rfl rfl rfl
  · exact .of_idle (hrun.fault_none (hn _)) (hrun.not_stopped (hn _)) hp hi (by simp)

theorem Inv.hostStep {s t : State} (h : Inv s) (hs : hostStep s = .next t) : Inv t := by
  rcases hostStep_next hs with ⟨rfl, _⟩ | ⟨r, u, hc, hu, rfl⟩
  · exact h
  · obtain ⟨_, _, hrun⟩ := inv_iff.1 h
    have hp : s.pauseReq = false := hrun.no_pauseReq (by simp [hc])
    have h0 : Inv { s with tickCycles := 0 } :=
      h.of_runOk (hrun.congr rfl rfl rfl rfl rfl) rfl rfl rfl rfl
    have hm := oneStep_moves hu
    have hr : RunOk u := hm.runOk (inv_iff.1 h0).2.2 (hrun.fault_none (by simp [hc]))
      (hrun.not_stopped (by simp [hc])) hp
    exact (h0.of_moves hm hr).closeStep (hm.pauseReq.trans hp)
      (hm.not_inTick (hrun.not_inTick (by simp [hc]) (by simp [hc])))

/-- A host write of the register channel sets registers and `skip_pc_bp` alone (R496). -/
theorem Inv.writeChannel {s : State} (h : Inv s) (offset : Fin 7) (v : Byte) : Inv (writeChannel offset v s) := by
  obtain ⟨_, _, hrun⟩ := inv_iff.1 h
  fin_cases offset <;> exact h.of_runOk (hrun.congr rfl rfl rfl rfl rfl) rfl rfl rfl rfl

theorem Inv.debugWrite {s : State} (h : Inv s) (a : Addr) (v : Byte) : Inv (debugWrite a v s) := by
  obtain ⟨hmem, htab, hrun⟩ := inv_iff.1 h
  unfold Machine.debugWrite
  simp only
  split
  case isFalse => exact h
  case isTrue hp =>
    refine inv_iff.2 ⟨⟨Memory.write_wf hmem.form _ _, fun c hc => ?_⟩, htab.congr rfl rfl rfl,
      hrun.congr rfl rfl rfl rfl rfl⟩
    rcases Memory.mem_write hc with hc | rfl
    · exact hmem.bound c hc
    · exact hp

/-- Every command of the host keeps the invariant (R485). -/
theorem Inv.perform {c : Command} {s t : State} (h : Inv s) (hp : perform c s = .next t) : Inv t := by
  obtain ⟨hmem, htab, hrun⟩ := inv_iff.1 h
  cases c with
  | init cfg => exact h.init hp
  | reset cold => exact (reset_inv hmem htab hp).1
  | run start => cases hp; exact h.hostRun start
  | pause => cases hp; exact h.hostPause
  | step => exact h.hostStep hp
  | setSpeed m => cases hp; exact h.of_runOk (hrun.congr rfl rfl rfl rfl rfl) rfl rfl rfl rfl
  | setTickLength d => cases hp; exact h.of_runOk (hrun.congr rfl rfl rfl rfl rfl) rfl rfl rfl rfl
  | addBreakpoint d =>
    cases hp
    obtain ⟨ht, he⟩ := addBreakpoint_spec d htab
    exact h.of_table ht he
  | removeBreakpoint d =>
    cases hp
    obtain ⟨ht, he⟩ := removeBreakpoint_spec d htab
    exact h.of_table ht he
  | clearBreakpoints => cases hp; exact h.of_table (empty_tableOk rfl rfl) rfl
  | writeChannel offset v =>
    simp only [Machine.perform] at hp
    split at hp <;> cases hp
    exact h.writeChannel offset v
  | debugWrite a v =>
    simp only [Machine.perform] at hp
    split at hp <;> cases hp
    exact h.debugWrite a v

theorem Inv.setCommands {s : State} (h : Inv s) (cs : List Arrival) : Inv { s with commands := cs } :=
  h.of_runOk ((inv_iff.1 h).2.2.congr rfl rfl rfl rfl rfl) rfl rfl rfl rfl

/-! ### The obligations -/

/-- Settles O55: nothing is stored, set or running after a reset. -/
theorem invAtReset : Obligations.InvAtReset :=
  inv_iff.2 ⟨⟨reset_mem_wf.1, reset_mem_wf.2⟩, empty_tableOk rfl rfl, .of_idle rfl rfl rfl rfl nofun⟩

/-- Settles O56: a step is a command of the host or a step of the engine, and both keep the invariant. -/
theorem stepKeepsInv : Obligations.StepKeepsInv := by
  unfold Obligations.StepKeepsInv
  intro s t h hs
  unfold step hostedStep at hs
  split at hs
  · exact h.engineStep hs
  · exact (h.setCommands _).engineStep hs
  · split at hs
    · exact h.engineStep hs
    · exact (h.setCommands _).perform hs

end Sys2Proof
end

section
/-! SUPPORT. What an instruction may write: the registers and flags the spec's lists name, and memory; one lemma per
shared operation, then one per instruction. The frames of R30 to R45 follow from it. -/

namespace Sys2Proof

open Machine

/-- The six flags by name (R33). -/
inductive Flag where
  | n
  | v
  | d
  | i
  | z
  | c
  deriving DecidableEq

/-- Read a flag by name. -/
def Flags.get (p : Flags) : Flag → Bool
  | .n => p.n
  | .v => p.v
  | .d => p.d
  | .i => p.i
  | .z => p.z
  | .c => p.c

/-- What a piece of the machine may write: which registers, which flags, and whether memory. -/
structure Footprint where
  reg : Reg → Bool
  flag : Flag → Bool
  stores : Bool

/-- May all these flags be written? -/
def Footprint.allows (fp : Footprint) (fs : List Flag) : Bool := fs.all fp.flag

/-- What the stack operations may write: S and memory (R32, R260). -/
def Footprint.stack : Footprint where
  reg r := r == .sp
  flag _ := false
  stores := true

/-- The registers an instruction may write (R30 to R32). -/
def Instr.mayWrite (i : Instr) : Reg → Bool
  | .a => accumulatorWriters.contains i.mnemonic || (accumulatorFormWriters.contains i.mnemonic && i.operand == .acc)
  | .x => xWriters.contains i.mnemonic
  | .y => yWriters.contains i.mnemonic
  | .sp => stackPointerWriters.contains i.mnemonic

/-- BIT immediate, the exception of the rows N and V (R35). -/
def Instr.isBitImm (i : Instr) : Bool := i.mnemonic == .bit && i.operand.mode == .imm

/-- The flags an instruction may set (R35). The exception of the row D, BRK on NMOS, depends on the variant and is
`exec_brk_keeps_d`. -/
def Instr.maySet (i : Instr) : Flag → Bool
  | .n => negativeWriters.contains i.mnemonic && !i.isBitImm
  | .v => overflowWriters.contains i.mnemonic && !i.isBitImm
  | .d => decimalWriters.contains i.mnemonic
  | .i => interruptWriters.contains i.mnemonic
  | .z => zeroWriters.contains i.mnemonic
  | .c => carryWriters.contains i.mnemonic

/-- What an instruction may write, by the lists of R30 to R35 and R40. -/
def Instr.footprint (i : Instr) : Footprint where
  reg := i.mayWrite
  flag := i.maySet
  stores := !i.storesNothing

namespace Machine

/-- Everything outside the footprint is as before: registers, flags, memory; a halt already pending (R476, R479) and the
switches of a machine that has none (R87) in any case. -/
structure Leaves (fp : Footprint) (s t : State) : Prop where
  cfg : t.cfg = s.cfg
  regs : ∀ r, fp.reg r = false → t.reg r = s.reg r
  flags : ∀ f, fp.flag f = false → t.p.get f = s.p.get f
  mem : fp.stores = false → t.mem = s.mem
  halt : s.pendingHalt.isSome = true → t.pendingHalt = s.pendingHalt
  sw : s.cfg.switchDecode = [] → t.sw = s.sw

variable {fp : Footprint}

theorem Leaves.refl (s : State) : Leaves fp s s :=
  ⟨rfl, fun _ _ => rfl, fun _ _ => rfl, fun _ => rfl, fun _ => rfl, fun _ => rfl⟩

theorem Leaves.trans {s t u : State} (h : Leaves fp s t) (h' : Leaves fp t u) : Leaves fp s u where
  cfg := h'.cfg.trans h.cfg
  regs r hr := (h'.regs r hr).trans (h.regs r hr)
  flags f hf := (h'.flags f hf).trans (h.flags f hf)
  mem hm := (h'.mem hm).trans (h.mem hm)
  halt hp := (h'.halt (by rwa [h.halt hp])).trans (h.halt hp)
  sw hs := (h'.sw (by rwa [h.cfg])).trans (h.sw hs)

/-- An update of the registers and flags that the footprint allows. -/
theorem Leaves.of_registers {s t : State}
    (ht : t = { s with a := t.a, x := t.x, y := t.y, sp := t.sp, pc := t.pc, p := t.p })
    (hr : ∀ r, fp.reg r = false → t.reg r = s.reg r) (hf : ∀ f, fp.flag f = false → t.p.get f = s.p.get f) :
    Leaves fp s t := by
  refine ⟨?_, hr, hf, fun _ => ?_, fun _ => ?_, fun _ => ?_⟩ <;> rw [ht]

/-- An update of anything but the registers and flags: PC, the run state, the events and the cycle count are in no
footprint. -/
theorem Leaves.of_rest {s t : State}
    (ht : t = { s with
      pc := t.pc, mem := t.mem, sw := t.sw, pendingHalt := t.pendingHalt, waiting := t.waiting, stopped := t.stopped
      ctrl := t.ctrl, events := t.events, skipPcBp := t.skipPcBp, tickCycles := t.tickCycles })
    (hm : fp.stores = false → t.mem = s.mem) (hh : s.pendingHalt.isSome = true → t.pendingHalt = s.pendingHalt)
    (hs : s.cfg.switchDecode = [] → t.sw = s.sw) : Leaves fp s t := by
  refine ⟨by rw [ht], fun r _ => ?_, fun _ _ => by rw [ht], hm, hh, hs⟩
  rw [ht]
  cases r <;> rfl

/-- An update of the run state, the events and the cycle count alone. -/
theorem Leaves.of_control {s t : State}
    (ht : t = { s with
      pc := t.pc, waiting := t.waiting, stopped := t.stopped, ctrl := t.ctrl, events := t.events
      skipPcBp := t.skipPcBp, tickCycles := t.tickCycles }) : Leaves fp s t := by
  refine .of_rest ?_ (fun _ => ?_) (fun _ => ?_) fun _ => ?_ <;> rw [ht]

theorem Leaves.setPc (s : State) (a : Addr) : Leaves fp s (s.setPc a) := .of_control rfl

theorem Leaves.setReg {r : Reg} (h : fp.reg r = true) (s : State) (v : Byte) : Leaves fp s (s.setReg r v) := by
  refine .of_registers (by cases r <;> rfl) (fun q hq => s.setReg_reg_ne v ?_) (fun f _ => by rw [State.setReg_p])
  rintro rfl
  simp [h] at hq

/-! ### What the flag computations leave alone -/

/-- Every flag but the named ones is as before. -/
def KeepsBut (fs : List Flag) (p q : Flags) : Prop := ∀ f, f ∈ fs ∨ q.get f = p.get f

theorem setNZ_keepsBut (v : Byte) (p : Flags) : KeepsBut [.n, .z] p (setNZ v p) := fun f => by
  cases f <;> simp [Flags.get, setNZ]

theorem compareFlags_keepsBut (r m : Byte) (p : Flags) : KeepsBut [.n, .z, .c] p (compareFlags r m p) := fun f => by
  cases f <;> simp [Flags.get, compareFlags]

theorem testBits_keepsBut (a m : Byte) (p : Flags) : KeepsBut [.n, .v, .z] p (testBits a m p) := fun f => by
  cases f <;> simp [Flags.get, testBits]

theorem testZero_keepsBut (a m : Byte) (p : Flags) : KeepsBut [.z] p (testZero a m p) := fun f => by
  cases f <;> simp [Flags.get, testZero]

theorem shiftResult_keepsBut (f : Byte → Bool → Byte × Bool) (m : Byte) (p : Flags) :
    KeepsBut [.n, .z, .c] p (shiftResult f m p).2 := fun f => by
  cases f <;> simp [Flags.get, shiftResult]

/-- Addition, binary or decimal, keeps D and I (R280 to R282). -/
theorem addWithCarry_keepsBut (w : Variant) (a m : Byte) (p : Flags) :
    KeepsBut [.n, .v, .z, .c] p (addWithCarry w a m p).2 := by
  have hdi : (addWithCarry w a m p).2.d = p.d ∧ (addWithCarry w a m p).2.i = p.i := by
    unfold addWithCarry
    split
    · split <;> exact ⟨rfl, rfl⟩
    · exact ⟨rfl, rfl⟩
  intro f
  cases f <;> simp [Flags.get, hdi]

/-- Subtraction, binary or decimal, keeps D and I (R283 to R285). -/
theorem subWithBorrow_keepsBut (w : Variant) (a m : Byte) (p : Flags) :
    KeepsBut [.n, .v, .z, .c] p (subWithBorrow w a m p).2 := by
  have hdi : (subWithBorrow w a m p).2.d = p.d ∧ (subWithBorrow w a m p).2.i = p.i := by
    unfold subWithBorrow
    split
    · split <;> exact ⟨rfl, rfl⟩
    · exact ⟨rfl, rfl⟩
  intro f
  cases f <;> simp [Flags.get, hdi]

/-! One flag set to a value, as the flag instructions do (R400 to R406). -/

theorem setC_keepsBut (b : Bool) (p : Flags) : KeepsBut [.c] p { p with c := b } := fun f => by
  cases f <;> simp [Flags.get]

theorem setI_keepsBut (b : Bool) (p : Flags) : KeepsBut [.i] p { p with i := b } := fun f => by
  cases f <;> simp [Flags.get]

theorem setD_keepsBut (b : Bool) (p : Flags) : KeepsBut [.d] p { p with d := b } := fun f => by
  cases f <;> simp [Flags.get]

theorem setV_keepsBut (b : Bool) (p : Flags) : KeepsBut [.v] p { p with v := b } := fun f => by
  cases f <;> simp [Flags.get]

/-- A footprint that holds the named flags leaves what a computation of them leaves. -/
theorem KeepsBut.outside {fs : List Flag} {p q : Flags} (h : KeepsBut fs p q) (hfp : fp.allows fs = true) {f : Flag}
    (hf : fp.flag f = false) : q.get f = p.get f :=
  (h f).resolve_left fun hm => by simp [List.all_eq_true.1 hfp f hm] at hf

theorem Leaves.setFlagsP {fs : List Flag} (hfp : fp.allows fs = true) {s : State} {q : Flags} (h : KeepsBut fs s.p q) :
    Leaves fp s (s.setFlagsP q) :=
  .of_registers rfl (fun r _ => by cases r <;> rfl) fun _ hf => h.outside hfp hf

theorem Leaves.setRegNZ {r : Reg} (hr : fp.reg r = true) (hnz : fp.allows [.n, .z] = true) (s : State) (v : Byte) :
    Leaves fp s (s.setRegNZ r v) :=
  (Leaves.setReg hr s v).trans (.setFlagsP hnz (by rw [State.setReg_p]; exact setNZ_keepsBut v s.p))

theorem Leaves.setAFlags {fs : List Flag} (ha : fp.reg .a = true) (hfp : fp.allows fs = true) {s : State} (v : Byte)
    {q : Flags} (h : KeepsBut fs s.p q) : Leaves fp s { s with a := v, p := q } :=
  (Leaves.setReg ha s v).trans (Leaves.setFlagsP (s := s.setReg .a v) hfp h)

/-! ### What the accesses leave alone -/

/-- A sequence of accesses begun in `s` leaves everything outside the footprint, where it completes. -/
def Access.Leaves {α : Type} (fp : Footprint) (s : State) : Access α → Prop
  | .done _ t => Machine.Leaves fp s t
  | .outOfRange _ _ => True

theorem Access.Leaves.bind {α β : Type} {s : State} {x : Access α} {f : α → State → Access β} (hx : x.Leaves fp s)
    (hf : ∀ v t, (f v t).Leaves fp t) : (x.bind f).Leaves fp s := by
  cases x with
  | outOfRange p u => trivial
  | done v t =>
    have h := hf v t
    simp only [Access.bind_done]
    cases hft : f v t with
    | done w u => rw [hft] at h; exact Machine.Leaves.trans hx h
    | outOfRange p u => trivial

/-- A sequence of accesses that first changes registers. -/
theorem Access.Leaves.of_leaves {α : Type} {s t : State} {x : Access α} (h : Machine.Leaves fp s t)
    (hx : x.Leaves fp t) : x.Leaves fp s := by
  cases x with
  | done v u => exact h.trans hx
  | outOfRange p u => trivial

theorem Access.Leaves.of_done {α : Type} {s t : State} {x : Access α} {v : α} (h : x.Leaves fp s)
    (hx : x = .done v t) : Machine.Leaves fp s t := by
  subst hx
  exact h

theorem done_leaves {α : Type} {v : α} {s t : State} (h : Leaves fp s t) : (Access.done v t).Leaves fp s := h

/-- An evaluation of a breakpoint keeps a halt already pending (R476). -/
theorem noteAccess_keeps_halt {k : AccessKind} {a : Addr} {s : State} (h : s.pendingHalt.isSome = true) :
    (noteAccess k a s).pendingHalt = s.pendingHalt := by
  rw [noteAccess_pendingHalt_of_isSome h]

theorem memRead_leaves (a : Addr) (s : State) : (memRead a s).Leaves fp s := by
  rw [memRead_eq]
  split
  · exact .of_rest rfl (fun _ => rfl) noteAccess_keeps_halt fun hs => switchDecode_none hs _ _ _ _
  · trivial

theorem memWrite_leaves (hm : fp.stores = true) (a : Addr) (v : Byte) (s : State) : (memWrite a v s).Leaves fp s := by
  rw [memWrite_eq]
  split
  · exact .of_rest rfl (by simp [hm]) noteAccess_keeps_halt fun hs => switchDecode_none hs _ _ _ _
  · trivial

theorem readPair_leaves (l h : Addr) (s : State) : (readPair l h s).Leaves fp s :=
  (memRead_leaves _ _).bind fun _ _ => (memRead_leaves _ _).bind fun _ _ => done_leaves (.refl _)

theorem push_leaves (hsp : fp.reg .sp = true) (hm : fp.stores = true) (v : Byte) (s : State) :
    (push v s).Leaves fp s :=
  (memWrite_leaves hm _ _ _).bind fun _ _ => done_leaves (.setReg (r := .sp) hsp _ _)

theorem pull_leaves (hsp : fp.reg .sp = true) (s : State) : (pull s).Leaves fp s :=
  .of_leaves (.setReg (r := .sp) hsp _ _) (memRead_leaves _ _)

theorem push16_leaves (hsp : fp.reg .sp = true) (hm : fp.stores = true) (w : Addr) (s : State) :
    (push16 w s).Leaves fp s :=
  (push_leaves hsp hm _ _).bind fun _ _ => push_leaves hsp hm _ _

theorem pull16_leaves (hsp : fp.reg .sp = true) (s : State) : (pull16 s).Leaves fp s :=
  (pull_leaves hsp _).bind fun _ _ => (pull_leaves hsp _).bind fun _ _ => done_leaves (.refl _)

theorem effAddr_leaves (pl : Place) (s : State) : (effAddr pl s).Leaves fp s := by
  cases pl with
  | izx z => exact (readPair_leaves _ _ _).bind fun _ _ => done_leaves (.refl _)
  | izy z => exact (readPair_leaves _ _ _).bind fun _ _ => done_leaves (.refl _)
  | izp z => exact (readPair_leaves _ _ _).bind fun _ _ => done_leaves (.refl _)
  | _ => exact done_leaves (.refl _)

theorem readSource_leaves (src : Source) (s : State) : (readSource src s).Leaves fp s := by
  cases src with
  | imm v => exact done_leaves (.refl _)
  | mem pl => exact (effAddr_leaves _ _).bind fun _ _ => (memRead_leaves _ _).bind fun _ _ => done_leaves (.refl _)

theorem indirectTarget_leaves (ptr : Addr) (s : State) : (indirectTarget ptr s).Leaves fp s := by
  unfold indirectTarget
  split <;> exact readPair_leaves _ _ _

/-! ### What the operations leave alone -/

/-- An operation all of whose runs leave everything outside the footprint. -/
def Confined (fp : Footprint) (op : State → Access Timing) : Prop := ∀ s, (op s).Leaves fp s

theorem confined_load {r : Reg} (hr : fp.reg r = true) (hnz : fp.allows [.n, .z] = true) (src : Source) :
    Confined fp (load r src) := fun _ =>
  (readSource_leaves _ _).bind fun _ _ => done_leaves (.setRegNZ hr hnz _ _)

theorem confined_storeTo (hm : fp.stores = true) (pl : Place) (f : State → Byte) :
    Confined fp (storeTo pl f) := fun _ =>
  (effAddr_leaves _ _).bind fun _ _ => (memWrite_leaves hm _ _ _).bind fun _ _ => done_leaves (.refl _)

theorem confined_transfer {dst : Reg} (hr : fp.reg dst = true) (hnz : fp.allows [.n, .z] = true) (src : Reg) :
    Confined fp (transfer src dst) := fun _ => Leaves.setRegNZ hr hnz _ _

theorem confined_setReg {r : Reg} (hr : fp.reg r = true) (f : State → Byte) :
    Confined fp (registerOnly fun s => s.setReg r (f s)) := fun _ => Leaves.setReg hr _ _

theorem confined_flags {fs : List Flag} (hfp : fp.allows fs = true) {f : State → Flags}
    (h : ∀ s : State, KeepsBut fs s.p (f s)) : Confined fp (registerOnly fun s => s.setFlagsP (f s)) := fun _ =>
  Leaves.setFlagsP hfp (h _)

theorem confined_push (hsp : fp.reg .sp = true) (hm : fp.stores = true) (f : State → Byte) :
    Confined fp fun s => (push (f s) s).bind fun _ s => .done {} s := fun _ =>
  (push_leaves hsp hm _ _).bind fun _ _ => done_leaves (.refl _)

theorem confined_pullReg {r : Reg} (hsp : fp.reg .sp = true) (hr : fp.reg r = true) (hnz : fp.allows [.n, .z] = true) :
    Confined fp (pullReg r) := fun _ =>
  (pull_leaves hsp _).bind fun _ _ => done_leaves (.setRegNZ hr hnz _ _)

/-- Every flag may be written by a pull of the status byte. -/
theorem keepsBut_all (p q : Flags) : KeepsBut [.n, .v, .d, .i, .z, .c] p q := fun f => by cases f <;> simp

theorem confined_pullFlags (hsp : fp.reg .sp = true) (hfp : fp.allows [.n, .v, .d, .i, .z, .c] = true) :
    Confined fp pullFlags := fun _ =>
  (pull_leaves hsp _).bind fun _ _ => done_leaves (.setFlagsP hfp (keepsBut_all _ _))

theorem confined_addToA (ha : fp.reg .a = true) (hfp : fp.allows [.n, .v, .z, .c] = true) (src : Source) :
    Confined fp (addToA src) := fun _ =>
  (readSource_leaves _ _).bind fun _ _ => done_leaves (.setAFlags ha hfp _ (addWithCarry_keepsBut _ _ _ _))

theorem confined_subFromA (ha : fp.reg .a = true) (hfp : fp.allows [.n, .v, .z, .c] = true) (src : Source) :
    Confined fp (subFromA src) := fun _ =>
  (readSource_leaves _ _).bind fun _ _ => done_leaves (.setAFlags ha hfp _ (subWithBorrow_keepsBut _ _ _ _))

theorem confined_compareReg (hfp : fp.allows [.n, .z, .c] = true) (r : Reg) (src : Source) :
    Confined fp (compareReg r src) := fun _ =>
  (readSource_leaves _ _).bind fun _ _ => done_leaves (.setFlagsP hfp (compareFlags_keepsBut _ _ _))

theorem confined_changeReg {r : Reg} (hr : fp.reg r = true) (hnz : fp.allows [.n, .z] = true) (f : Byte → Byte) :
    Confined fp (changeReg r f) := fun _ => Leaves.setRegNZ hr hnz _ _

theorem confined_logic (ha : fp.reg .a = true) (hnz : fp.allows [.n, .z] = true) (f : Byte → Byte → Byte)
    (src : Source) : Confined fp (logic f src) := fun _ =>
  (readSource_leaves _ _).bind fun _ _ => done_leaves (.setRegNZ ha hnz _ _)

theorem confined_testA {fs : List Flag} (hfp : fp.allows fs = true) {f : Byte → Byte → Flags → Flags}
    (h : ∀ a m p, KeepsBut fs p (f a m p)) (src : Source) : Confined fp (testA f src) := fun _ =>
  (readSource_leaves _ _).bind fun _ _ => done_leaves (.setFlagsP hfp (h _ _ _))

theorem confined_shiftA (ha : fp.reg .a = true) (hfp : fp.allows [.n, .z, .c] = true)
    (f : Byte → Bool → Byte × Bool) : Confined fp (shiftA (shiftResult f)) := fun _ =>
  Leaves.setAFlags ha hfp _ (shiftResult_keepsBut _ _ _)

theorem confined_modifyFlagsFirst {fs : List Flag} (hm : fp.stores = true) (hfp : fp.allows fs = true)
    {f : State → Byte → Byte × Flags} (h : ∀ s m, KeepsBut fs s.p (f s m).2) (pl : Place) :
    Confined fp (modifyFlagsFirst pl f) := fun _ =>
  (effAddr_leaves _ _).bind fun _ _ => (memRead_leaves _ _).bind fun _ _ =>
    .of_leaves (.setFlagsP hfp (h _ _)) ((memWrite_leaves hm _ _ _).bind fun _ _ => done_leaves (.refl _))

theorem confined_modifyFlagsLast {fs : List Flag} (hm : fp.stores = true) (hfp : fp.allows fs = true)
    {fl : Byte → Flags → Flags} (h : ∀ v p, KeepsBut fs p (fl v p)) (pl : Place) (f : Byte → Byte) :
    Confined fp (modifyFlagsLast pl f fl) := fun _ =>
  (effAddr_leaves _ _).bind fun _ _ => (memRead_leaves _ _).bind fun _ _ =>
    (memWrite_leaves hm _ _ _).bind fun _ _ => done_leaves (.setFlagsP hfp (h _ _))

theorem confined_shiftMem (hm : fp.stores = true) (hfp : fp.allows [.n, .z, .c] = true)
    (f : Byte → Bool → Byte × Bool) (pl : Place) : Confined fp (shiftMem (shiftResult f) pl) :=
  confined_modifyFlagsFirst hm hfp (fun _ _ => shiftResult_keepsBut _ _ _) pl

theorem confined_testAndChange (hm : fp.stores = true) (hfp : fp.allows [.z] = true) (f : Byte → Byte → Byte)
    (pl : Place) : Confined fp (testAndChange f pl) :=
  confined_modifyFlagsFirst hm hfp (fun _ _ => testZero_keepsBut _ _ _) pl

theorem confined_changeBits (hm : fp.stores = true) (f : Byte → Byte) (z : Byte) : Confined fp (changeBits f z) :=
  confined_modifyFlagsLast (fs := []) hm rfl (fun _ _ _ => .inr rfl) _ f

theorem confined_jump (a : Addr) : Confined fp (jump a) := fun _ => Leaves.setPc _ _

theorem confined_jumpIndirect (a : Addr) : Confined fp (jumpIndirect a) := fun _ =>
  (indirectTarget_leaves _ _).bind fun _ _ => done_leaves (.setPc _ _)

theorem confined_jumpIndexedIndirect (a : Addr) : Confined fp (jumpIndexedIndirect a) := fun _ =>
  (readPair_leaves _ _ _).bind fun _ _ => done_leaves (.setPc _ _)

theorem confined_jumpSubroutine (hsp : fp.reg .sp = true) (hm : fp.stores = true) (a : Addr) :
    Confined fp (jumpSubroutine a) := fun _ =>
  (push16_leaves hsp hm _ _).bind fun _ _ => done_leaves (.setPc _ _)

theorem confined_returnFromSubroutine (hsp : fp.reg .sp = true) : Confined fp returnFromSubroutine := fun _ =>
  (pull16_leaves hsp _).bind fun _ _ => done_leaves (.setPc _ _)

theorem confined_returnFromInterrupt (hsp : fp.reg .sp = true)
    (hfp : fp.allows [.n, .v, .d, .i, .z, .c] = true) : Confined fp returnFromInterrupt := fun _ =>
  ((pull_leaves hsp _).bind fun _ _ => .of_leaves (.setFlagsP hfp (keepsBut_all _ _))
    ((pull16_leaves hsp _).bind fun _ _ => done_leaves (.setPc _ _))).bind fun _ _ => done_leaves (.refl _)

/-- BRK flags a halt only where none is pending (R479). -/
theorem Leaves.flagBreak (s : State) : Leaves fp s (flagBreak s) := by
  unfold Machine.flagBreak
  split
  · rename_i hb
    refine .of_rest rfl (fun _ => rfl) (fun hp => ?_) fun _ => rfl
    simp only [Bool.and_eq_true, Option.isNone_iff_eq_none] at hb
    simp [hb.2] at hp
  · exact .refl s

theorem confined_softwareInterrupt (hsp : fp.reg .sp = true) (hm : fp.stores = true)
    (hfp : fp.allows [.d, .i] = true) : Confined fp softwareInterrupt := fun _ =>
  ((push16_leaves hsp hm _ _).bind fun _ _ => (push_leaves hsp hm _ _).bind fun _ _ =>
    .of_leaves (.setFlagsP hfp fun f => by cases f <;> simp [Flags.get])
      ((readPair_leaves _ _ _).bind fun _ _ => done_leaves (.setPc _ _))).bind fun _ _ => done_leaves (.flagBreak _)

theorem confined_branchIf (cond : Flags → Bool) (r : Byte) : Confined fp (branchIf cond r) := fun s => by
  unfold branchIf
  split
  · exact done_leaves (.setPc _ _)
  · exact done_leaves (.refl _)

theorem confined_branchAlways (r : Byte) : Confined fp (branchAlways r) := fun _ => done_leaves (.setPc _ _)

theorem confined_branchOnBit (n : Nat) (want : Bool) (z r : Byte) : Confined fp (branchOnBit n want z r) := fun _ =>
  (memRead_leaves _ _).bind fun _ _ => confined_branchIf _ _ _

/-- NOP changes nothing at all. -/
theorem confined_nop : Confined fp (registerOnly fun s => s) := fun _ => Leaves.refl _

/-- WAI sets `waiting` alone. -/
theorem confined_wait : Confined fp (registerOnly fun s => { s with waiting := true }) := fun _ =>
  .of_control rfl

theorem confined_stopProcessor : Confined fp (registerOnly stopProcessor) := fun _ => .of_control rfl

/-- Every instruction is the frame around an operation confined to what the spec lets the instruction write. -/
theorem exec_confined (i : Instr) : ∃ op, (∀ s, exec i s = instruction i op s) ∧ Confined i.footprint op := by
  cases i
  case ldaIzx | ldaZp | ldaImm | ldaAbs | ldaIzy | ldaIzp | ldaZpx | ldaAby | ldaAbx | ldxImm | ldxZp | ldxAbs |
      ldxZpy | ldxAby | ldyImm | ldyZp | ldyAbs | ldyZpx | ldyAbx =>
    exact ⟨_, fun _ => exec_load rfl rfl, confined_load rfl rfl _⟩
  case staIzx | staZp | staAbs | staIzy | staIzp | staZpx | staAby | staAbx | stxZp | stxAbs | stxZpy | styZp |
      styAbs | styZpx | stzZp | stzZpx | stzAbs | stzAbx =>
    exact ⟨_, fun _ => exec_store rfl rfl, confined_storeTo rfl _ _⟩
  case tax | tay | tsx | txa | tya =>
    exact ⟨_, fun _ => exec_transfer rfl, confined_transfer rfl rfl _⟩
  case txs =>
    exact ⟨_, fun _ => rfl, confined_setReg (r := .sp) rfl fun s => s.x⟩
  case pha | php | phx | phy =>
    exact ⟨_, fun _ => exec_push rfl, confined_push rfl rfl _⟩
  case pla | plx | ply =>
    exact ⟨_, fun _ => exec_pull rfl, confined_pullReg rfl rfl rfl⟩
  case plp =>
    exact ⟨_, fun _ => rfl, confined_pullFlags rfl rfl⟩
  case adcIzx | adcZp | adcImm | adcAbs | adcIzy | adcIzp | adcZpx | adcAby | adcAbx =>
    exact ⟨_, fun _ => exec_adc rfl rfl, confined_addToA rfl rfl _⟩
  case sbcIzx | sbcZp | sbcImm | sbcAbs | sbcIzy | sbcIzp | sbcZpx | sbcAby | sbcAbx =>
    exact ⟨_, fun _ => exec_sbc rfl rfl, confined_subFromA rfl rfl _⟩
  case cmpIzx | cmpZp | cmpImm | cmpAbs | cmpIzy | cmpIzp | cmpZpx | cmpAby | cmpAbx | cpxImm | cpxZp | cpxAbs |
      cpyImm | cpyZp | cpyAbs =>
    exact ⟨_, fun _ => exec_compare rfl rfl, confined_compareReg rfl _ _⟩
  case andIzx | andZp | andImm | andAbs | andIzy | andIzp | andZpx | andAby | andAbx | eorIzx | eorZp | eorImm |
      eorAbs | eorIzy | eorIzp | eorZpx | eorAby | eorAbx | oraIzx | oraZp | oraImm | oraAbs | oraIzy | oraIzp |
      oraZpx | oraAby | oraAbx =>
    exact ⟨_, fun _ => exec_logic rfl rfl, confined_logic rfl rfl _ _⟩
  case bitImm v =>
    exact ⟨_, fun _ => rfl, confined_testA rfl testZero_keepsBut (.imm v)⟩
  case bitZp | bitAbs | bitZpx | bitAbx =>
    exact ⟨_, fun _ => exec_bitMem rfl rfl, confined_testA rfl testBits_keepsBut _⟩
  case aslAcc | lsrAcc | rolAcc | rorAcc =>
    exact ⟨_, fun _ => exec_shiftA rfl rfl, confined_shiftA rfl rfl _⟩
  case aslZp | aslAbs | aslZpx | aslAbx | lsrZp | lsrAbs | lsrZpx | lsrAbx | rolZp | rolAbs | rolZpx | rolAbx |
      rorZp | rorAbs | rorZpx | rorAbx =>
    exact ⟨_, fun _ => exec_shiftMem rfl rfl, confined_shiftMem rfl rfl _ _⟩
  case decAcc | incAcc =>
    exact ⟨_, fun _ => exec_incDecA rfl rfl, confined_changeReg rfl rfl _⟩
  case decZp | decAbs | decZpx | decAbx | incZp | incAbs | incZpx | incAbx =>
    exact ⟨_, fun _ => exec_incDecMem rfl rfl, confined_modifyFlagsLast rfl rfl setNZ_keepsBut _ _⟩
  case dex | dey | inx | iny =>
    exact ⟨_, fun _ => exec_indexStep rfl, confined_changeReg rfl rfl _⟩
  case trbZp | trbAbs | tsbZp | tsbAbs =>
    exact ⟨_, fun _ => exec_testAndSet rfl rfl, confined_testAndChange rfl rfl _ _⟩
  case rmb0 | rmb1 | rmb2 | rmb3 | rmb4 | rmb5 | rmb6 | rmb7 =>
    exact ⟨_, fun _ => exec_resetBit rfl rfl, confined_changeBits rfl _ _⟩
  case smb0 | smb1 | smb2 | smb3 | smb4 | smb5 | smb6 | smb7 =>
    exact ⟨_, fun _ => exec_setBit rfl rfl, confined_changeBits rfl _ _⟩
  case jmpAbs =>
    exact ⟨_, fun _ => rfl, confined_jump _⟩
  case jmpInd =>
    exact ⟨_, fun _ => rfl, confined_jumpIndirect _⟩
  case jmpIax =>
    exact ⟨_, fun _ => rfl, confined_jumpIndexedIndirect _⟩
  case jsr =>
    exact ⟨_, fun _ => rfl, confined_jumpSubroutine rfl rfl _⟩
  case rts =>
    exact ⟨_, fun _ => rfl, confined_returnFromSubroutine rfl⟩
  case rti =>
    exact ⟨_, fun _ => rfl, confined_returnFromInterrupt rfl rfl⟩
  case brk =>
    exact ⟨_, fun _ => rfl, confined_softwareInterrupt rfl rfl rfl⟩
  case bcc | bcs | beq | bmi | bne | bpl | bvc | bvs =>
    exact ⟨_, fun _ => exec_branch rfl rfl, confined_branchIf _ _⟩
  case bra =>
    exact ⟨_, fun _ => rfl, confined_branchAlways _⟩
  case bbr0 | bbr1 | bbr2 | bbr3 | bbr4 | bbr5 | bbr6 | bbr7 | bbs0 | bbs1 | bbs2 | bbs3 | bbs4 | bbs5 | bbs6 |
      bbs7 =>
    exact ⟨_, fun _ => exec_bitBranch rfl rfl, confined_branchOnBit _ _ _ _⟩
  case clc | sec =>
    exact ⟨_, fun _ => exec_flag rfl, confined_flags rfl fun s => setC_keepsBut _ s.p⟩
  case cli | sei =>
    exact ⟨_, fun _ => exec_flag rfl, confined_flags rfl fun s => setI_keepsBut _ s.p⟩
  case cld | sed =>
    exact ⟨_, fun _ => exec_flag rfl, confined_flags rfl fun s => setD_keepsBut _ s.p⟩
  case clv =>
    exact ⟨_, fun _ => exec_flag rfl, confined_flags rfl fun s => setV_keepsBut _ s.p⟩
  case nop =>
    exact ⟨_, fun _ => rfl, confined_nop⟩
  case wai =>
    exact ⟨_, fun _ => rfl, confined_wait⟩
  case stp =>
    exact ⟨_, fun _ => rfl, confined_stopProcessor⟩

/-- What an instruction leaves alone is everything outside its footprint. -/
theorem exec_leaves {i : Instr} {s t : State} (h : exec i s = .next t) : Leaves i.footprint s t := by
  obtain ⟨op, he, hc⟩ := exec_confined i
  rw [he] at h
  obtain ⟨ti, u, hu, rfl⟩ := instruction_next.1 h
  exact ((Leaves.setPc s _).trans ((hc _).of_done hu)).trans (.of_control rfl)

/-- Taking an exception clears D on CMOS alone (R433, D39). -/
theorem takeException_d {vec ret : Addr} {b : Bool} {s t : State} {x : Unit}
    (h : takeException vec ret b s = .done x t) : t.p.d = if s.cfg.variant.cmos then false else s.p.d := by
  obtain ⟨_, u, h1, h⟩ := Access.bind_eq_done.1 h
  obtain ⟨_, v, h2, h⟩ := Access.bind_eq_done.1 h
  obtain ⟨w, z, h3, h⟩ := Access.bind_eq_done.1 h
  cases h
  have hv : Leaves .stack s v := ((push16_leaves rfl rfl _ _).of_done h1).trans ((push_leaves rfl rfl _ _).of_done h2)
  have hz : z.p.d = if v.cfg.variant.cmos then false else v.p.d :=
    ((readPair_leaves (fp := .stack) _ _ _).of_done h3).flags .d rfl
  have hd : v.p.d = s.p.d := hv.flags .d rfl
  rw [State.setPc_p, hz, hv.cfg, hd]

@[simp] theorem flagBreak_p (s : State) : (flagBreak s).p = s.p := by
  unfold flagBreak
  split <;> rfl

/-- BRK keeps D on NMOS (R35). -/
theorem exec_brk_keeps_d {s t : State} (h : exec .brk s = .next t) (hv : s.cfg.variant = .nmos6502) :
    t.p.d = s.p.d := by
  obtain ⟨ti, u, hu, rfl⟩ := instruction_next.1 (show instruction .brk softwareInterrupt s = .next t from h)
  obtain ⟨_, w, hw, hu⟩ := Access.bind_eq_done.1 hu
  cases hu
  show (flagBreak w).p.d = s.p.d
  rw [flagBreak_p, takeException_d hw]
  simp [State.advance, hv, Variant.cmos]

/-! ### The byte each storing operation changes -/

/-- A push changes no byte but the one at the stack address (R260). -/
theorem push_memByte {v : Byte} {s t : State} {x : Unit} (h : push v s = .done x t)
    (hw : Memory.wf s.cfg.initFill s.mem) {p : Nat} (hp : p ≠ s.phys .write (stackAddr s.sp)) :
    t.memByte p = s.memByte p := by
  obtain ⟨u, h1, rfl⟩ := push_done h
  exact (memWrite_memByte h1 hw p).trans (if_neg hp)

theorem push_sp {v : Byte} {s t : State} {x : Unit} (h : push v s = .done x t) : t.sp = s.sp - 1 := by
  obtain ⟨u, _, rfl⟩ := push_done h
  rfl

theorem push_wf {v : Byte} {s t : State} {x : Unit} (h : push v s = .done x t)
    (hw : Memory.wf s.cfg.initFill s.mem) : Memory.wf t.cfg.initFill t.mem := by
  rw [(push_operates h).cfg]
  exact (push_operates h).wf hw

theorem storeTo_memByte {pl : Place} {f : State → Byte} {s t u : State} {ti : Timing} {ea : EffAddr}
    (h : storeTo pl f s = .done ti t) (he : effAddr pl s = .done ea u) (hw : Memory.wf s.cfg.initFill s.mem) {p : Nat}
    (hp : p ≠ u.phys .write ea.addr) : t.memByte p = s.memByte p := by
  obtain ⟨ea', u', he', hm, _⟩ := storeTo_done h
  cases he.symm.trans he'
  have hr := effAddr_readsOnly he
  rw [memWrite_memByte hm (by rw [hr.cfg, hr.mem]; exact hw), if_neg hp, hr.memByte]

theorem modifyFlagsFirst_memByte {pl : Place} {f : State → Byte → Byte × Flags} {s t u v : State} {ti : Timing}
    {ea : EffAddr} {m : Byte} (h : modifyFlagsFirst pl f s = .done ti t) (he : effAddr pl s = .done ea u)
    (hr : memRead ea.addr u = .done m v) (hw : Memory.wf s.cfg.initFill s.mem) {p : Nat}
    (hp : p ≠ v.phys .write ea.addr) : t.memByte p = s.memByte p := by
  obtain ⟨ea', u', m', v', he', hr', hm, _⟩ := modifyFlagsFirst_done h
  cases he.symm.trans he'
  cases hr.symm.trans hr'
  have hsv := (effAddr_readsOnly he).trans (memRead_readsOnly hr)
  rw [memWrite_memByte hm (by rw [State.setFlagsP_cfg, State.setFlagsP_mem, hsv.cfg, hsv.mem]; exact hw)]
  exact (if_neg hp).trans (hsv.memByte p)

theorem modifyFlagsLast_memByte {pl : Place} {f : Byte → Byte} {fl : Byte → Flags → Flags} {s t u v : State}
    {ti : Timing} {ea : EffAddr} {m : Byte} (h : modifyFlagsLast pl f fl s = .done ti t)
    (he : effAddr pl s = .done ea u) (hr : memRead ea.addr u = .done m v) (hw : Memory.wf s.cfg.initFill s.mem)
    {p : Nat} (hp : p ≠ v.phys .write ea.addr) : t.memByte p = s.memByte p := by
  obtain ⟨ea', u', m', v', w, he', hr', hm, rfl, _⟩ := modifyFlagsLast_done h
  cases he.symm.trans he'
  cases hr.symm.trans hr'
  have hsv := (effAddr_readsOnly he).trans (memRead_readsOnly hr)
  show w.memByte p = s.memByte p
  rw [memWrite_memByte hm (by rw [hsv.cfg, hsv.mem]; exact hw), if_neg hp, hsv.memByte]

/-- RMBn and SMBn work on a page-zero byte (R330, R331). -/
theorem bitChange_place {i : Instr} {pl : Place} (h : (resetBit i.mnemonic).isSome ∨ (setBit i.mnemonic).isSome)
    (ho : i.operand = .mem pl) : ∃ z, pl = .zp z := by
  rcases h with h | h
  · cases i <;> cases h <;> cases ho <;> exact ⟨_, rfl⟩
  · cases i <;> cases h <;> cases ho <;> exact ⟨_, rfl⟩

/-- The memory form of a modifying instruction is a read-modify-write of its operand (R95). -/
theorem exec_modify {i : Instr} {pl : Place} (hm : i.mnemonic ∈ modifyingMnemonics) (ho : i.operand = .mem pl) :
    (∃ f, ∀ s, exec i s = instruction i (modifyFlagsFirst pl f) s) ∨
      ∃ f fl, ∀ s, exec i s = instruction i (modifyFlagsLast pl f fl) s := by
  have classes : ∀ m ∈ modifyingMnemonics, (shiftOp m).isSome ∨ (incDecOp m).isSome ∨ (testAndSetOp m).isSome ∨
      (resetBit m).isSome ∨ (setBit m).isSome := by decide
  have ht : i.operand.target? = some (.mem pl) := by rw [ho]; rfl
  have hp : i.operand.place? = some pl := by rw [ho]; rfl
  rcases classes _ hm with h | h | h | h | h
  · obtain ⟨f, hf⟩ := Option.isSome_iff_exists.1 h
    exact .inl ⟨_, fun _ => exec_shiftMem hf ht⟩
  · obtain ⟨f, hf⟩ := Option.isSome_iff_exists.1 h
    exact .inr ⟨_, _, fun _ => exec_incDecMem hf ht⟩
  · obtain ⟨f, hf⟩ := Option.isSome_iff_exists.1 h
    exact .inl ⟨_, fun _ => exec_testAndSet hf hp⟩
  · obtain ⟨n, hn⟩ := Option.isSome_iff_exists.1 h
    obtain ⟨z, rfl⟩ := bitChange_place (.inl h) ho
    exact .inr ⟨_, _, fun _ => exec_resetBit hn ho⟩
  · obtain ⟨n, hn⟩ := Option.isSome_iff_exists.1 h
    obtain ⟨z, rfl⟩ := bitChange_place (.inr h) ho
    exact .inr ⟨_, _, fun _ => exec_setBit hn ho⟩

/-! ### The bytes each storing instruction changes -/

/-- Two pushes in a row change no byte but the two at the stack addresses. -/
theorem push16_memByte {w : Addr} {s u t : State} {x : Unit} (h : push16 w s = .done x t)
    (hu : push (hi w) s = .done () u) (hw : Memory.wf s.cfg.initFill s.mem) {p : Nat}
    (hp : p ≠ s.phys .write (stackAddr s.sp)) (hq : p ≠ u.phys .write (stackAddr (s.sp - 1))) :
    t.memByte p = s.memByte p := by
  obtain ⟨_, u', hu', ht⟩ := Access.bind_eq_done.1 h
  cases hu.symm.trans hu'
  rw [← push_sp hu] at hq
  rw [push_memByte ht (push_wf hu hw) hq, push_memByte hu hw hp]

theorem exec_store_memByte {i : Instr} {s t u : State} {pl : Place} {ea : EffAddr}
    (hs : (storeValue i.mnemonic).isSome = true) (ho : i.operand = .mem pl)
    (he : effAddr pl (s.advance i) = .done ea u) (hw : Memory.wf s.cfg.initFill s.mem) (h : exec i s = .next t)
    {p : Nat} (hp : p ≠ u.phys .write ea.addr) : t.memByte p = s.memByte p := by
  obtain ⟨f, hf⟩ := Option.isSome_iff_exists.1 hs
  rw [exec_store hf (by rw [ho]; rfl)] at h
  obtain ⟨ti, v, hv, rfl⟩ := instruction_next.1 h
  exact storeTo_memByte hv he hw hp

theorem exec_modify_memByte {i : Instr} {s t u v : State} {pl : Place} {ea : EffAddr} {m : Byte}
    (hm : i.mnemonic ∈ modifyingMnemonics) (ho : i.operand = .mem pl) (he : effAddr pl (s.advance i) = .done ea u)
    (hr : memRead ea.addr u = .done m v) (hw : Memory.wf s.cfg.initFill s.mem) (h : exec i s = .next t)
    {p : Nat} (hp : p ≠ v.phys .write ea.addr) : t.memByte p = s.memByte p := by
  rcases exec_modify hm ho with ⟨f, hx⟩ | ⟨f, fl, hx⟩
  · rw [hx] at h
    obtain ⟨ti, w, hd, rfl⟩ := instruction_next.1 h
    exact modifyFlagsFirst_memByte hd he hr hw hp
  · rw [hx] at h
    obtain ⟨ti, w, hd, rfl⟩ := instruction_next.1 h
    exact modifyFlagsLast_memByte hd he hr hw hp

theorem exec_push_memByte {i : Instr} {s t : State} {f : State → Byte} (hf : pushValue i.mnemonic = some f)
    (hw : Memory.wf s.cfg.initFill s.mem) (h : exec i s = .next t) {p : Nat}
    (hp : p ≠ s.phys .write (stackAddr s.sp)) : t.memByte p = s.memByte p := by
  rw [exec_push hf] at h
  obtain ⟨ti, u, hu, rfl⟩ := instruction_next.1 h
  obtain ⟨_, v, hv, hu⟩ := Access.bind_eq_done.1 hu
  cases hu
  exact push_memByte hv hw hp

theorem exec_jsr_memByte {a : Addr} {s t u : State} (hu : push (hi (s.pc + 2)) (s.advance (.jsr a)) = .done () u)
    (hw : Memory.wf s.cfg.initFill s.mem) (h : exec (.jsr a) s = .next t) {p : Nat}
    (hp : p ≠ s.phys .write (stackAddr s.sp)) (hq : p ≠ u.phys .write (stackAddr (s.sp - 1))) :
    t.memByte p = s.memByte p := by
  obtain ⟨ti, v, hv, rfl⟩ := instruction_next.1 (show instruction (.jsr a) (jumpSubroutine a) s = .next t from h)
  obtain ⟨_, w, hpush, hv⟩ := Access.bind_eq_done.1 hv
  cases hv
  have hret : (s.advance (.jsr a)).pc - 1 = s.pc + 2 := by
    show s.pc + 3 - 1 = s.pc + 2
    bv_omega
  rw [hret] at hpush
  exact push16_memByte hpush hu hw hp hq

/-- Taking an exception changes no byte but the three it pushes (R433, R366). -/
theorem takeException_memByte {vec ret : Addr} {b : Bool} {s t u w : State} {x : Unit}
    (h : takeException vec ret b s = .done x t) (hu : push (hi ret) s = .done () u) (hv : push (lo ret) u = .done () w)
    (hw : Memory.wf s.cfg.initFill s.mem) {p : Nat} (hp : p ≠ s.phys .write (stackAddr s.sp))
    (hq : p ≠ u.phys .write (stackAddr (s.sp - 1))) (hr : p ≠ w.phys .write (stackAddr (s.sp - 2))) :
    t.memByte p = s.memByte p := by
  obtain ⟨_, w', h1, h⟩ := Access.bind_eq_done.1 h
  obtain ⟨_, z, h2, h⟩ := Access.bind_eq_done.1 h
  obtain ⟨g, y, h3, h⟩ := Access.bind_eq_done.1 h
  cases h
  have hw' : w' = w := by
    have h1' : push16 ret s = .done () w := Access.bind_eq_done.2 ⟨_, u, hu, hv⟩
    cases h1.symm.trans h1'
    rfl
  subst hw'
  have hsp : s.sp - 2 = w'.sp := by rw [push_sp hv, push_sp hu]; bv_omega
  rw [hsp] at hr
  calc (y.setPc g).memByte p = y.memByte p := rfl
    _ = z.memByte p := (readPair_done h3).1.memByte p
    _ = w'.memByte p := push_memByte h2 (push_wf hv (push_wf hu hw)) hr
    _ = s.memByte p := push16_memByte h1 hu hw hp hq

@[simp] theorem flagBreak_memByte (s : State) (p : Nat) : (flagBreak s).memByte p = s.memByte p := by
  unfold flagBreak
  split <;> rfl

theorem exec_brk_memByte {s t u w : State} (hu : push (hi (s.pc + 2)) (s.advance .brk) = .done () u)
    (hv : push (lo (s.pc + 2)) u = .done () w) (hw : Memory.wf s.cfg.initFill s.mem) (h : exec .brk s = .next t)
    {p : Nat} (hp : p ≠ s.phys .write (stackAddr s.sp)) (hq : p ≠ u.phys .write (stackAddr (s.sp - 1)))
    (hr : p ≠ w.phys .write (stackAddr (s.sp - 2))) : t.memByte p = s.memByte p := by
  obtain ⟨ti, v, hd, rfl⟩ := instruction_next.1 (show instruction .brk softwareInterrupt s = .next t from h)
  obtain ⟨_, y, hx, hd⟩ := Access.bind_eq_done.1 hd
  cases hd
  have hret : (s.advance .brk).pc + 1 = s.pc + 2 := by
    show s.pc + 1 + 1 = s.pc + 2
    bv_omega
  rw [hret] at hx
  exact (flagBreak_memByte y p).trans (takeException_memByte hx hu hv hw hp hq hr)

/-! ### The status byte -/

/-- A flag as bit `n` of a byte is that bit and no other. -/
theorem flagBit_getLsbD (b : Bool) {n : Nat} (hn : n < 8) (k : Nat) :
    (flagBit b n).getLsbD k = (b && decide (k = n)) := by
  cases b with
  | false => simp [flagBit]
  | true =>
    simp only [flagBit, bitMask, if_true, BitVec.getLsbD_shiftLeft, BitVec.getLsbD_one]
    by_cases hk : k = n
    · simp [hk, hn]
    · have hle : n ≤ k → k - n ≠ 0 := by omega
      simpa [hk] using fun _ => hle

/-- The bits of the composed status byte (R33). -/
theorem pbyte_getLsbD (p : Flags) (b : Bool) (k : Nat) :
    (pbyte p b).getLsbD k =
      (p.n && decide (k = 7) || p.v && decide (k = 6) || decide (k = 5) || b && decide (k = 4) ||
        p.d && decide (k = 3) || p.i && decide (k = 2) || p.z && decide (k = 1) || p.c && decide (k = 0)) := by
  simp [pbyte, BitVec.getLsbD_or, flagBit_getLsbD]

/-- The flags written from the composed byte are the flags it was composed of (R34). -/
theorem flagsOfByte_pbyte (p : Flags) (b : Bool) : flagsOfByte (pbyte p b) = p := by
  simp only [flagsOfByte, pbyte_getLsbD]
  simp

end Machine

/-! ### The obligations -/

/-- Settles O35: each flag is one bit of the composed byte, and reading the six bits back gives the flags. -/
theorem statusByteRoundTrip : Obligations.StatusByteRoundTrip := by
  unfold Obligations.StatusByteRoundTrip
  refine ⟨fun p b => ⟨?_, ?_, ?_, ?_, ?_, ?_, ?_, ?_, flagsOfByte_pbyte p b⟩, fun _ => rfl⟩ <;>
    simp only [pbyte_getLsbD] <;> simp

/-- Settles O57: a register an instruction's row does not list lies outside its footprint. -/
theorem registerFrame : Obligations.RegisterFrame := by
  unfold Obligations.RegisterFrame
  intro i s t h
  have hl := exec_leaves h
  refine ⟨fun h1 h2 => hl.regs .a ?_, fun h1 => hl.regs .x ?_, fun h1 => hl.regs .y ?_, fun h1 => hl.regs .sp ?_⟩
  · simpa [Instr.footprint, Instr.mayWrite, h1] using h2
  all_goals simpa [Instr.footprint, Instr.mayWrite] using h1

/-- Settles O58: so does a flag it does not list, and BRK on NMOS keeps D. -/
theorem flagFrame : Obligations.FlagFrame := by
  unfold Obligations.FlagFrame
  intro i s t h
  have hl := exec_leaves h
  refine ⟨fun h1 => hl.flags .n ?_, fun h1 => hl.flags .v ?_, fun h1 => ?_, fun h1 => hl.flags .i ?_,
    fun h1 => hl.flags .z ?_, fun h1 => hl.flags .c ?_⟩
  case refine_3 =>
    rcases h1 with h1 | ⟨rfl, hv⟩
    · exact hl.flags .d (by simpa [Instr.footprint, Instr.maySet] using h1)
    · exact exec_brk_keeps_d h hv
  case refine_1 | refine_2 =>
    simpa [Instr.footprint, Instr.maySet, Instr.isBitImm, or_iff_not_imp_left] using h1
  all_goals simpa [Instr.footprint, Instr.maySet] using h1

/-- Settles O59: an instruction that stores nothing leaves memory, and each storing one changes the bytes its writes
resolve to. -/
theorem memoryFrame : Obligations.MemoryFrame := by
  unfold Obligations.MemoryFrame
  intro i s t hw h
  refine ⟨fun hn p => ?_, fun pl ea u hs ho he p => exec_store_memByte hs ho he hw h,
    fun pl ea u m v hm ho he hr p => exec_modify_memByte hm ho he hr hw h,
    fun f hf p => exec_push_memByte hf hw h, ?_, ?_⟩
  · have hl := exec_leaves h
    have hm : t.mem = s.mem := hl.mem (by simp [Instr.footprint, hn])
    unfold State.memByte
    rw [hl.cfg, hm]
  · rintro a u rfl hu p
    exact exec_jsr_memByte hu hw h
  · rintro u w rfl hu hv p
    exact exec_brk_memByte hu hv hw h

/-- Settles O60: an operation stays within `Operates`, WAI and STP change what they name, and no footprint holds a
pending halt or the switches of a machine that has none. -/
theorem machineFrame : Obligations.MachineFrame := by
  unfold Obligations.MachineFrame
  intro i s t h
  have hl := exec_leaves h
  by_cases hw : i = .wai
  · subst hw
    rw [exec_wai] at h
    cases h
    exact ⟨rfl, rfl, rfl, rfl, rfl, rfl, rfl, rfl, rfl, rfl, rfl, rfl, rfl, fun hn => absurd rfl hn,
      fun _ => ⟨rfl, rfl, rfl⟩, hl.halt, hl.sw⟩
  by_cases hs : i = .stp
  · subst hs
    rw [exec_stp] at h
    cases h
    exact ⟨rfl, rfl, rfl, rfl, rfl, rfl, rfl, rfl, rfl, rfl, rfl, rfl, rfl, fun _ => rfl, fun hn => absurd rfl hn,
      hl.halt, hl.sw⟩
  obtain ⟨u, n, ho, rfl⟩ := exec_next hw hs h
  rw [ho.same]
  exact ⟨rfl, rfl, rfl, rfl, rfl, rfl, rfl, rfl, rfl, rfl, rfl, rfl, rfl, fun _ => rfl, fun _ => ⟨rfl, rfl, rfl⟩,
    hl.halt, hl.sw⟩

end Sys2Proof
end

section
/-! SUPPORT. The switches after a data write, and what a data read in range does: what a write is for the reads after
it. -/

namespace Sys2Proof

open Machine

namespace Machine

/-- A data write that completes updates the switches by `SWITCH_DECODE` (R85, R87). -/
theorem memWrite_sw {a : Addr} {v : Byte} {s t : State} {x : Unit} (h : memWrite a v s = .done x t) :
    t.sw = switchDecode s.cfg s.sw .write a v := by
  rw [memWrite_eq] at h
  split at h <;> cases h
  rfl

/-- A data read in range gives the byte at its address, then updates the switches with it (R84, R87). -/
theorem memRead_of_inRange {s : State} {a : Addr} (h : s.phys .read a < s.cfg.memSize) :
    ∃ t, memRead a s = .done (s.byteAt a) t ∧ t.mem = s.mem ∧
      t.sw = switchDecode s.cfg s.sw .read a (s.byteAt a) := by
  rw [memRead_eq, if_pos h]
  exact ⟨_, rfl, rfl, rfl⟩

end Machine

/-- Settles O6: the write determines every byte of memory, and a read in range gives the byte at its address. -/
theorem writesReachLaterReads : Obligations.WritesReachLaterReads := by
  unfold Obligations.WritesReachLaterReads
  intro s t a b v hw h
  refine ⟨memWrite_sw h, fun hb => ?_⟩
  have hc : t.cfg = s.cfg := (memWrite_accesses h).cfg
  have hm : t.byteAt b = if t.phys .read b = s.phys .write a then v else s.memByte (t.phys .read b) :=
    memWrite_memByte h hw _
  rw [← hc] at hb ⊢
  rw [← hm]
  exact memRead_of_inRange hb

end Sys2Proof
end

section
/-! SUPPORT. The opcode map read in both directions: every instruction has its row in the map, and every cell of the map
stands at the opcode byte of the instructions it builds. The decoder and the encoder undo each other by these two. -/

namespace Sys2Proof

namespace Laws.TableRow

/-- Every instruction has its row in the opcode map. -/
theorem statement (i : Instr) : Statement i :=
  Instr.casesOn i
    brk oraIzx tsbZp oraZp aslZp rmb0 php oraImm aslAcc tsbAbs oraAbs aslAbs bbr0 bpl oraIzy oraIzp trbZp oraZpx
    aslZpx rmb1 clc oraAby incAcc trbAbs oraAbx aslAbx bbr1 jsr andIzx bitZp andZp rolZp rmb2 plp andImm rolAcc bitAbs
    andAbs rolAbs bbr2 bmi andIzy andIzp bitZpx andZpx rolZpx rmb3 sec andAby decAcc bitAbx andAbx rolAbx bbr3 rti
    eorIzx eorZp lsrZp rmb4 pha eorImm lsrAcc jmpAbs eorAbs lsrAbs bbr4 bvc eorIzy eorIzp eorZpx lsrZpx rmb5 cli
    eorAby phy eorAbx lsrAbx bbr5 rts adcIzx stzZp adcZp rorZp rmb6 pla adcImm rorAcc jmpInd adcAbs rorAbs bbr6 bvs
    adcIzy adcIzp stzZpx adcZpx rorZpx rmb7 sei adcAby ply jmpIax adcAbx rorAbx bbr7 bra staIzx styZp staZp stxZp smb0
    dey bitImm txa styAbs staAbs stxAbs bbs0 bcc staIzy staIzp styZpx staZpx stxZpy smb1 tya staAby txs stzAbs staAbx
    stzAbx bbs1 ldyImm ldaIzx ldxImm ldyZp ldaZp ldxZp smb2 tay ldaImm tax ldyAbs ldaAbs ldxAbs bbs2 bcs ldaIzy ldaIzp
    ldyZpx ldaZpx ldxZpy smb3 clv ldaAby tsx ldyAbx ldaAbx ldxAby bbs3 cpyImm cmpIzx cpyZp cmpZp decZp smb4 iny cmpImm
    dex wai cpyAbs cmpAbs decAbs bbs4 bne cmpIzy cmpIzp cmpZpx decZpx smb5 cld cmpAby phx stp cmpAbx decAbx bbs5
    cpxImm sbcIzx cpxZp sbcZp incZp smb6 inx sbcImm nop cpxAbs sbcAbs incAbs bbs6 beq sbcIzy sbcIzp sbcZpx incZpx smb7
    sed sbcAby plx sbcAbx incAbx bbs7

end Laws.TableRow

/-! ### The decoder by its cases -/

/-- A variant has the cells of the map whose row it enables (R133, R145). -/
theorem lookupOpcode_eq_some_iff {v : Variant} {op : Byte} {f : Form} :
    lookupOpcode v op = some f ↔ opcodeForm op = some f ∧ f.sample.wf v = true := by
  unfold lookupOpcode Instr.wf
  cases opcodeForm op with
  | none => simp
  | some g =>
    rw [Option.ite_none_right_eq_some, Option.some_inj]
    constructor
    · rintro ⟨h, rfl⟩
      exact ⟨rfl, h⟩
    · rintro ⟨rfl, h⟩
      exact ⟨h, rfl⟩

theorem decode_eq_ok_iff {v : Variant} {bytes rest : List Byte} {i : Instr} :
    decode v bytes = .ok (i, rest) ↔
      ∃ op tail f, bytes = op :: tail ∧ lookupOpcode v op = some f ∧ f.build tail = some (i, rest) := by
  cases bytes with
  | nil => simp [decode]
  | cons op tail =>
    cases hf : lookupOpcode v op with
    | none => simp [decode, hf]
    | some f => cases hb : f.build tail <;> simp [decode, hf, hb]

theorem decode_eq_invalidOpcode_iff {v : Variant} {op : Byte} {rest : List Byte} :
    decode v (op :: rest) = .error (.invalidOpcode op) ↔ lookupOpcode v op = none := by
  cases hf : lookupOpcode v op with
  | none => simp [decode, hf]
  | some f => cases hb : f.build rest <;> simp [decode, hf, hb]

/-! ### From an instruction to its cell -/

/-- The cell of a well-formed instruction's opcode byte builds it from its operand bytes, whatever follows. -/
theorem lookupOpcode_of_wf {v : Variant} {i : Instr} (h : i.wf v = true) :
    ∃ f, lookupOpcode v i.opcode = some f ∧ ∀ rest, f.build (i.operand.bytes ++ rest) = some (i, rest) := by
  obtain ⟨f, hf, hd, -, -, hb⟩ := Laws.TableRow.statement i
  have hw : f.sample.wf v = true := by rwa [Instr.wf, hd]
  exact ⟨f, lookupOpcode_eq_some_iff.2 ⟨hf, hw⟩, hb⟩

theorem length_encode (i : Instr) : (encode i).length = i.length := by
  obtain ⟨-, -, -, -, hl, -⟩ := Laws.TableRow.statement i
  exact hl

/-! ### From a cell to the instructions it builds -/

/-- The cell stands at the opcode byte of every instruction it builds, and the operand bytes of an instruction are those
it is built from (R131, R135, R140). -/
def Form.Fits (op : Byte) : Form → Prop
  | .plain i => i.opcode = op ∧ i.operand.bytes = []
  | .byte g => ∀ b, (g b).opcode = op ∧ (g b).operand.bytes = [b]
  | .word g => ∀ a, (g a).opcode = op ∧ (g a).operand.bytes = [lo a, hi a]
  | .zpr g => ∀ z r, (g z r).opcode = op ∧ (g z r).operand.bytes = [z, r]

theorem Form.Fits.sample_opcode {op : Byte} {f : Form} (h : f.Fits op) : f.sample.opcode = op := by
  cases f with
  | plain i => exact h.1
  | byte g => exact (h 0).1
  | word g => exact (h 0).1
  | zpr g => exact (h 0 0).1

/-- What a fitting cell builds has the cell's opcode byte, and its operand bytes are the bytes it takes. -/
theorem Form.Fits.of_build {op : Byte} {f : Form} (h : f.Fits op) {bytes rest : List Byte} {i : Instr}
    (hb : f.build bytes = some (i, rest)) : i.opcode = op ∧ bytes = i.operand.bytes ++ rest := by
  unfold Form.build at hb
  split at hb <;> cases hb
  case h_1 => exact ⟨h.1, by simp [h.2]⟩
  case h_2 _ b => exact ⟨(h b).1, by simp [(h b).2]⟩
  case h_3 _ l u => exact ⟨(h (word16 u l)).1, by simp [(h (word16 u l)).2]⟩
  case h_4 _ z r => exact ⟨(h z r).1, by simp [(h z r).2]⟩

/-- Every cell of the map fits the opcode byte of its row and column. -/
theorem opcodeMap_fits : ∀ row ∈ opcodeMap.zipIdx, ∀ cell ∈ row.1.zipIdx, ∀ f ∈ cell.1,
    f.Fits (BitVec.ofNat 8 (16 * row.2 + cell.2)) := by
  simp only [opcodeMap, opcodeRow0, opcodeRow1, opcodeRow2, opcodeRow3, opcodeRow4, opcodeRow5, opcodeRow6, opcodeRow7,
    opcodeRow8, opcodeRow9, opcodeRowA, opcodeRowB, opcodeRowC, opcodeRowD, opcodeRowE, opcodeRowF,
    List.zipIdx_cons, List.zipIdx_nil, List.forall_mem_cons, Option.mem_some_iff, forall_eq', Form.Fits,
    Option.not_mem_none, List.not_mem_nil, IsEmpty.forall_iff, implies_true, and_true, true_and]
  and_intros
  all_goals intros; and_intros <;> rfl

theorem opcodeForm_eq_some {op : Byte} {f : Form} (h : opcodeForm op = some f) :
    ∃ row, opcodeMap[op.toNat / 16]? = some row ∧ row[op.toNat % 16]? = some (some f) := by
  unfold opcodeForm at h
  split at h
  · next row hrow =>
    split at h
    · next cell hcell => exact ⟨row, hrow, h ▸ hcell⟩
    · cases h
  · cases h

theorem opcodeForm_fits {op : Byte} {f : Form} (h : opcodeForm op = some f) : f.Fits op := by
  obtain ⟨row, hrow, hcell⟩ := opcodeForm_eq_some h
  have hop : BitVec.ofNat 8 (16 * (op.toNat / 16) + op.toNat % 16) = op := by
    rw [Nat.div_add_mod, BitVec.ofNat_toNat, BitVec.setWidth_eq]
  exact hop ▸ opcodeMap_fits _ (List.mk_mem_zipIdx_iff_getElem?.2 hrow) _
    (List.mk_mem_zipIdx_iff_getElem?.2 hcell) f rfl

/-- An opcode byte is invalid exactly where no instruction of the variant has it: a cell gives one, its sample. -/
theorem lookupOpcode_eq_none_iff {v : Variant} {op : Byte} :
    lookupOpcode v op = none ↔ ∀ i : Instr, i.wf v = true → i.opcode ≠ op := by
  constructor
  · rintro h i hw rfl
    obtain ⟨f, hf, -⟩ := lookupOpcode_of_wf hw
    exact Option.some_ne_none f (hf.symm.trans h)
  · refine fun h => Option.eq_none_iff_forall_ne_some.2 fun f hf => ?_
    obtain ⟨hm, hw⟩ := lookupOpcode_eq_some_iff.1 hf
    exact h f.sample hw (opcodeForm_fits hm).sample_opcode

/-! ### The number of invalid opcode bytes -/

/-- The numbers below `m * n`, in `n` rows of `m`. -/
theorem range_mul_eq_flatMap (m n : Nat) :
    List.range (m * n) = (List.range n).flatMap fun row => (List.range m).map (m * row + ·) := by
  induction n with
  | zero => rfl
  | succ n ih =>
    rw [Nat.mul_succ, List.range_add, ih, List.range_succ, List.flatMap_append, List.flatMap_singleton]

/-- The invalid opcode bytes counted row by row of the map. -/
theorem countP_invalid_by_rows (v : Variant) :
    ((List.range 256).countP fun n => (lookupOpcode v (BitVec.ofNat 8 n)).isNone) =
      ((List.range 16).map fun row =>
        ((List.range 16).map (16 * row + ·)).countP fun n => (lookupOpcode v (BitVec.ofNat 8 n)).isNone).sum := by
  rw [range_mul_eq_flatMap 16 16, List.countP_flatMap]
  rfl

/-! ### The statements -/

/-- Settles O1: the cell of the opcode byte builds the instruction from its operand bytes. -/
theorem decodeOfEncode : Obligations.DecodeOfEncode := by
  unfold Obligations.DecodeOfEncode
  intro v i rest hw
  obtain ⟨f, hf, hb⟩ := lookupOpcode_of_wf hw
  exact decode_eq_ok_iff.2 ⟨i.opcode, i.operand.bytes ++ rest, f, rfl, hf, hb rest⟩

/-- Settles O2: the cell that built the instruction stands at its opcode byte, so it is the instruction's own row. -/
theorem decodedBytesAreTheEncoding : Obligations.DecodedBytesAreTheEncoding := by
  unfold Obligations.DecodedBytesAreTheEncoding
  intro v bytes rest i h
  obtain ⟨op, tail, f, rfl, hf, hb⟩ := decode_eq_ok_iff.1 h
  obtain ⟨hm, hw⟩ := lookupOpcode_eq_some_iff.1 hf
  obtain ⟨rfl, rfl⟩ := (opcodeForm_fits hm).of_build hb
  obtain ⟨g, hg, hd, -⟩ := Laws.TableRow.statement i
  cases hm.symm.trans hg
  refine ⟨?_, rfl, length_encode i⟩
  rwa [Instr.wf, ← hd]

/-- Settles O5: an invalid byte is one without a cell of the variant, and the rows of the map are counted. -/
theorem invalidOpcodesAreNamed : Obligations.InvalidOpcodesAreNamed := by
  unfold Obligations.InvalidOpcodesAreNamed
  refine fun v => ⟨fun op rest => decode_eq_invalidOpcode_iff.trans lookupOpcode_eq_none_iff, ?_⟩
  rw [countP_invalid_by_rows]
  cases v <;> rfl

/-- Settles O3: the three lines of the golden sequence are the same on each of the four variants. -/
theorem goldenEncodings : Obligations.GoldenEncodings := by
  unfold Obligations.GoldenEncodings
  intro v
  cases v <;> rfl

/-- Settles O4: the decoder run on each of the sixteen words. -/
theorem writtenWordsDecode : Obligations.WrittenWordsDecode := by
  unfold Obligations.WrittenWordsDecode
  and_intros <;> rfl

end Sys2Proof
end

section
/-! SUPPORT. The boundary of the engine read forwards: which check ends the tick, and that a ready boundary goes
straight to the instruction at PC. -/

namespace Sys2Proof

open Machine

namespace Machine

/-! ### What a boundary does, by the first check that applies (R170, R435) -/

/-- In a tick with no command before it, a step of the machine is one turn of the engine's loop. -/
theorem step_eq_boundary {s : State} (hc : s.commands = []) (hi : s.inTick = true) : step s = boundary s := by
  unfold step hostedStep
  rw [hc]
  exact if_pos hi

/-- After a fault or STP the tick is left at once. -/
theorem boundary_of_dead {s : State} (h : s.fault.isSome = true ∨ s.stopped = true) :
    boundary s = .next { s.openBoundary with inTick := false } :=
  if_pos (Bool.or_eq_true_iff.2 h)

section Live

variable {s : State} (hf : s.fault = none) (hs : s.stopped = false)
include hf hs

theorem boundary_of_pendingHalt {h : PendingHalt} (hp : s.pendingHalt = some h) :
    boundary s = .next (takePendingHalt h s.openBoundary) := by
  unfold boundary
  rw [hf, hs, hp]
  rfl

variable (hp : s.pendingHalt = none)
include hp

/-- With no fault, STP or pending halt behind it, a boundary comes to its checks for a pause and the budget. -/
theorem boundary_of_live : boundary s =
    if s.pauseReq then .next (takePause s.openBoundary)
    else if s.budget ≤ s.tickCycles then .next (endTick s.openBoundary)
    else oneStep (!s.skipPcBp) s.openBoundary := by
  unfold boundary
  rw [hf, hs, hp]
  rfl

theorem boundary_of_pauseReq (hr : s.pauseReq = true) : boundary s = .next (takePause s.openBoundary) := by
  rw [boundary_of_live hf hs hp, if_pos hr]

theorem boundary_of_budgetMet (hr : s.pauseReq = false) (hb : s.budget ≤ s.tickCycles) :
    boundary s = .next (endTick s.openBoundary) := by
  rw [boundary_of_live hf hs hp, if_neg (by simp [hr]), if_pos hb]

theorem boundary_of_open (hr : s.pauseReq = false) (hb : s.tickCycles < s.budget) :
    boundary s = oneStep (!s.skipPcBp) s.openBoundary := by
  rw [boundary_of_live hf hs hp, if_neg (by simp [hr]), if_neg (Nat.not_le.2 hb)]

end Live

/-! ### An open boundary, and a ready one -/

/-- A step at an open boundary is `one_step` after the channel is published. -/
theorem step_of_boundaryOpen {s : State} (h : BoundaryOpen s) : step s = oneStep (!s.skipPcBp) s.openBoundary :=
  (step_eq_boundary h.noCommand h.inTick).trans
    (boundary_of_open h.noFault h.notStopped h.noPendingHalt h.noPauseRequest h.budgetLeft)

/-- With no wait, no NMI and no IRQ let through, only a PC breakpoint comes before the instruction at PC. -/
theorem serviceBoundary_of_quiet {e irq : Bool} {s : State} (hw : s.waiting = false) (hn : s.nmiLatch = false)
    (hi : (irq && !s.p.i) = false) (hb : (e && pcBreakpointHit s.wake) = false) :
    serviceBoundary e irq s = runInstr s.wake := by
  unfold serviceBoundary
  rw [hw, hn, hi, hb]
  rfl

/-- Where nothing is latched, waiting or requested, sampling the lines of a boundary uses up its entry alone. -/
theorem wake_samplePins_openBoundary {s : State} (hu : Uninterrupted s) (hr : s.pauseReq = false) :
    s.openBoundary.samplePins.wake = s.atFetch := by
  have hn : (s.openBoundary.nmiLatch || s.openBoundary.pinsNow.nmiEdge) = s.nmiLatch := by
    have h : (s.nmiLatch || s.pinsNow.nmiEdge) = false := hu.noNmi
    exact h.trans (Bool.or_eq_false_iff.1 h).1.symm
  unfold State.wake State.samplePins
  rw [hn, ← hu.notWaiting]
  unfold State.openBoundary
  rw [← hr]
  rfl

/-- A step at a ready boundary fetches and runs the instruction at PC. -/
theorem step_of_ready {s : State} (h : Ready s) : step s = runInstr s.atFetch := by
  have hw := wake_samplePins_openBoundary h.uninterrupted h.boundary.noPauseRequest
  have hb : (!s.skipPcBp && pcBreakpointHit s.atFetch) = false := by
    rcases h.noBreakpoint with hk | hk
    · simp [hk]
    · exact Bool.and_eq_false_iff.2 (.inr hk)
  rw [step_of_boundaryOpen h.boundary, ← hw]
  exact serviceBoundary_of_quiet h.uninterrupted.notWaiting h.uninterrupted.noNmi h.uninterrupted.noIrq (hw ▸ hb)

/-! ### The fetch -/

/-- The opcode byte of an instruction of the variant gives its length (R130, R172). -/
theorem opcodeLength_of_wf {v : Variant} {i : Instr} (h : i.wf v = true) : opcodeLength v i.opcode = some i.length := by
  obtain ⟨f, hf, hd, -⟩ := Laws.TableRow.statement i
  have hl : lookupOpcode v i.opcode = some f := lookupOpcode_eq_some_iff.2 ⟨hf, by rwa [Instr.wf, hd]⟩
  unfold opcodeLength
  rw [hl]
  exact congrArg (fun d => some d.mode.length) hd

/-- Where the bytes at PC are the encoding of an instruction of the variant, the fetch reads them and decodes it. -/
theorem fetchInstr_of_encode {s u : State} {i : Instr} (hw : i.wf s.cfg.variant = true)
    (h : fetchBytes s.pc i.length s = .done (encode i) u) : fetchInstr s = .done (.ok i) u := by
  rw [← length_encode] at h
  obtain ⟨op, w, hop, h⟩ := Access.bind_eq_done.1 h
  obtain ⟨operands, z, hbs, h⟩ := Access.bind_eq_done.1 h
  cases h
  have hd : decode s.cfg.variant (encode i) = .ok (i, []) := by
    simpa using decodeOfEncode s.cfg.variant i [] hw
  have hl : i.length - 1 = i.operand.bytes.length := by rw [← length_encode]; rfl
  unfold fetchInstr
  rw [hop, Access.bind_done]
  simp only [opcodeLength_of_wf hw, hl, hbs, Access.bind_done]
  rw [show i.opcode :: i.operand.bytes = encode i from rfl, hd]
  rfl

/-- An opcode fetch out of range halts the engine with the address of the instruction (R178, R445). -/
theorem runInstr_of_outOfRange {s : State} (h : s.cfg.memSize ≤ s.phys .read s.pc) :
    runInstr s = .fault (.outOfRange (s.phys .read s.pc) (s.haltOutOfRange s.pc (s.phys .read s.pc))) := by
  have hf : fetchInstr s = .outOfRange (s.phys .read s.pc) s := by
    unfold fetchInstr fetch busRead
    simp only [if_neg (Nat.not_lt.2 h), Access.bind_outOfRange]
  unfold runInstr
  rw [hf]

end Machine

/-- Settles O40: each of the four checks, where none before it applies, is the one the boundary comes to. -/
theorem boundaryOrder : Obligations.BoundaryOrder := by
  unfold Obligations.BoundaryOrder
  intro s hc hi
  rw [step_eq_boundary hc hi]
  exact ⟨boundary_of_dead, fun hf hs => ⟨fun _ hp => boundary_of_pendingHalt hf hs hp,
    fun hp hr => boundary_of_pauseReq hf hs hp hr, fun hp hr hb => boundary_of_budgetMet hf hs hp hr hb⟩⟩

/-- Settles O39: a ready boundary runs the instruction at PC, and the fetch decodes the encoding back to it. -/
theorem stepRunsDecodedInstruction : Obligations.StepRunsDecodedInstruction := by
  unfold Obligations.StepRunsDecodedInstruction
  intro s u i hr hw hf
  refine ⟨?_, (fetchBytes_done hf).2⟩
  rw [step_of_ready hr]
  unfold runInstr
  rw [fetchInstr_of_encode (s := s.atFetch) hw hf]

end Sys2Proof
end

section
/-! SUPPORT. The addressing modes and the operand byte read forwards: two data reads without soft switches, and the
parts of an operand read. -/

namespace Sys2Proof

open Machine

namespace Machine

/-- Without soft switches two data reads give the bytes at both addresses and change a breakpoint's flag alone. -/
theorem readPair_noSwitch {s : State} (hm : s.cfg.mapsInRange) (hs : s.cfg.switchDecode = []) (l h : Addr) :
    ∃ ph, readPair l h s = .done (word16 (s.byteAt h) (s.byteAt l)) { s with pendingHalt := ph } := by
  have hsecond := fun ph => memRead_noSwitch (s := { s with pendingHalt := ph }) hm hs h
  unfold readPair
  rw [memRead_noSwitch hm hs, Access.bind_done, hsecond]
  exact ⟨_, rfl⟩

/-- Without soft switches a page-zero pointer is the word there, its high byte wrapping inside page zero (R15). -/
theorem zpRead16_noSwitch {s : State} (hm : s.cfg.mapsInRange) (hs : s.cfg.switchDecode = []) (z : Byte) :
    ∃ ph, zpRead16 z s = .done (s.zpWordAt z) { s with pendingHalt := ph } :=
  readPair_noSwitch hm hs _ _

/-- A mode that reads a page-zero pointer: its address is made of the pointer, and a breakpoint's flag alone changes. -/
theorem zpRead16_bind_noSwitch {α : Type} {s : State} (hm : s.cfg.mapsInRange) (hs : s.cfg.switchDecode = []) (z : Byte)
    (f : Addr → State → α) (hf : ∀ w ph, f w { s with pendingHalt := ph } = f w s) :
    ∃ t, ((zpRead16 z s).bind fun w s => .done (f w s) s) = .done (f (s.zpWordAt z) s) t ∧
      t = { s with pendingHalt := t.pendingHalt } := by
  obtain ⟨ph, h⟩ := zpRead16_noSwitch hm hs z
  exact ⟨_, by rw [h, Access.bind_done, hf], rfl⟩

/-- A read from memory is the effective address, then one data read there (R196). -/
theorem readSource_mem_done {pl : Place} {s t : State} {m : OperandByte} (h : readSource (.mem pl) s = .done m t) :
    ∃ ea u, effAddr pl s = .done ea u ∧ memRead ea.addr u = .done m.value t ∧ m.cross = ea.cross := by
  obtain ⟨ea, u, hea, h⟩ := Access.bind_eq_done.1 h
  obtain ⟨b, w, hb, h⟩ := Access.bind_eq_done.1 h
  cases h
  exact ⟨ea, u, hea, hb, rfl⟩

end Machine

/-- Settles O9: six modes access nothing, and each pointer mode is one page-zero pointer read. -/
theorem effectiveAddresses : Obligations.EffectiveAddresses := by
  unfold Obligations.EffectiveAddresses
  intro s z base hm hs
  exact ⟨rfl, rfl, rfl, rfl, rfl, rfl,
    zpRead16_bind_noSwitch hm hs (z + s.x) (fun w _ => plainAddr w) fun _ _ => rfl,
    zpRead16_bind_noSwitch hm hs z (fun w _ => plainAddr w) fun _ _ => rfl,
    zpRead16_bind_noSwitch hm hs z (fun w s => indexed w s.y) fun _ _ => rfl⟩

/-- Settles O10: an immediate byte is no access, and a byte in memory is one data read at the effective address. -/
theorem operandBytes : Obligations.OperandBytes := by
  unfold Obligations.OperandBytes
  intro src s t m h
  refine ⟨readSource_done h, ?_⟩
  cases src with
  | imm v => cases h; exact ⟨rfl, rfl⟩
  | mem pl =>
    obtain ⟨ea, u, hea, hb, hx⟩ := readSource_mem_done h
    exact ⟨ea, u, hea, effAddr_readsOnly hea, hb, memRead_value hb, hx⟩

end Sys2Proof
end

section
/-! SUPPORT. An access out of range: what each accessor answers there, and that a load, a store and an opcode fetch stop
at it. -/

namespace Sys2Proof

open Machine

namespace Machine

/-! ### The accessors out of range (R83, R88) -/

theorem busRead_of_outOfRange {a : Addr} {s : State} (h : s.cfg.memSize ≤ s.phys .read a) :
    busRead a s = .outOfRange (s.phys .read a) s :=
  if_neg (Nat.not_lt.2 h)

theorem busWrite_of_outOfRange {a : Addr} {s : State} (v : Byte) (h : s.cfg.memSize ≤ s.phys .write a) :
    busWrite a v s = .outOfRange (s.phys .write a) s :=
  if_neg (Nat.not_lt.2 h)

theorem memRead_of_outOfRange {a : Addr} {s : State} (h : s.cfg.memSize ≤ s.phys .read a) :
    memRead a s = .outOfRange (s.phys .read a) { s with pendingHalt := (noteAccess .read a s).pendingHalt } := by
  rw [memRead_eq, if_neg (Nat.not_lt.2 h)]

theorem memWrite_of_outOfRange {a : Addr} {s : State} (v : Byte) (h : s.cfg.memSize ≤ s.phys .write a) :
    memWrite a v s = .outOfRange (s.phys .write a) { s with pendingHalt := (noteAccess .write a s).pendingHalt } := by
  rw [memWrite_eq, if_neg (Nat.not_lt.2 h)]

theorem debugRead_of_outOfRange {a : Addr} {s : State} (h : s.cfg.memSize ≤ s.phys .read a) : debugRead s a = none :=
  if_neg (Nat.not_lt.2 h)

theorem debugRead_of_inRange {a : Addr} {s : State} (h : s.phys .read a < s.cfg.memSize) :
    debugRead s a = some (s.memByte (s.phys .read a)) :=
  if_pos h

/-- The configuration, the switches and memory are all that `debugRead` depends on (R91). -/
theorem debugRead_congr {s t : State} (hc : t.cfg = s.cfg) (hs : t.sw = s.sw) (hm : t.mem = s.mem) (a : Addr) :
    debugRead t a = debugRead s a := by
  unfold debugRead State.memByte State.phys
  rw [hc, hs, hm]

/-! ### What stops at such an access -/

/-- A ready boundary whose opcode fetch is out of range halts with no byte, no switch and no PC changed (R178). -/
theorem step_of_ready_outOfRange {s : State} (hr : Ready s) (h : s.cfg.memSize ≤ s.phys .read s.pc) :
    step s = .fault (.outOfRange (s.phys .read s.pc) (s.atFetch.haltOutOfRange s.pc (s.phys .read s.pc))) :=
  (step_of_ready hr).trans (runInstr_of_outOfRange (s := s.atFetch) h)

/-- A load whose data read is out of range stops at it, with the state its effective address left and a breakpoint's flag
(R178). -/
theorem exec_load_of_outOfRange {i : Instr} {s u : State} {r : Reg} {pl : Place} {ea : EffAddr}
    (hl : loadTarget i.mnemonic = some r) (ho : i.operand = .mem pl) (he : effAddr pl (s.advance i) = .done ea u)
    (h : u.cfg.memSize ≤ u.phys .read ea.addr) :
    ∃ ph, exec i s = .fault (.outOfRange (u.phys .read ea.addr)
      (({ u with pendingHalt := ph } : State).haltOutOfRange s.pc (u.phys .read ea.addr))) := by
  have hop : load r (.mem pl) (s.advance i) = .outOfRange (u.phys .read ea.addr)
      { u with pendingHalt := (noteAccess .read ea.addr u).pendingHalt } := by
    simp only [load, readSource, he, memRead_of_outOfRange h, Access.bind_done, Access.bind_outOfRange]
  exact ⟨_, (exec_load hl (by rw [ho]; rfl)).trans (instruction_fault.2 ⟨_, _, hop, rfl⟩)⟩

/-- A store whose data write is out of range stops at it likewise. -/
theorem exec_store_of_outOfRange {i : Instr} {s u : State} {f : State → Byte} {pl : Place} {ea : EffAddr}
    (hf : storeValue i.mnemonic = some f) (ho : i.operand = .mem pl) (he : effAddr pl (s.advance i) = .done ea u)
    (h : u.cfg.memSize ≤ u.phys .write ea.addr) :
    ∃ ph, exec i s = .fault (.outOfRange (u.phys .write ea.addr)
      (({ u with pendingHalt := ph } : State).haltOutOfRange s.pc (u.phys .write ea.addr))) := by
  have hop : storeTo pl f (s.advance i) = .outOfRange (u.phys .write ea.addr)
      { u with pendingHalt := (noteAccess .write ea.addr u).pendingHalt } := by
    simp only [storeTo, he, memWrite_of_outOfRange _ h, Access.bind_done, Access.bind_outOfRange]
  exact ⟨_, (exec_store hf (by rw [ho]; rfl)).trans (instruction_fault.2 ⟨_, _, hop, rfl⟩)⟩

/-- The state a stopped instruction halts in (R445): the fault, `CTRL` and the one event, and no cycle charged. -/
theorem exec_fault_halted {i : Instr} {s : State} {r : Fault} (h : exec i s = .fault r) :
    ∃ p u, r = .outOfRange p u ∧ s.cfg.memSize ≤ p ∧ u.fault = some (.outOfRange p) ∧ u.ctrl = .halted .outOfRange ∧
      u.inTick = false ∧ u.tickCycles = s.tickCycles ∧ u.events = s.events ++ [.halted (.halt .outOfRange) s.pc] := by
  obtain ⟨p, u, rfl, ho, hp, -⟩ := exec_fault h
  have htick : u.tickCycles = s.tickCycles := by rw [ho.same]
  have hev : u.events = s.events := by rw [ho.same]
  exact ⟨p, _, rfl, hp, rfl, rfl, rfl, htick, by rw [State.haltOutOfRange_events, hev]⟩

end Machine

/-- Settles O8: a stop is the fault of an operation, and each access of the statement stops out of range. -/
theorem outOfRangeHaltsTheEngine : Obligations.OutOfRangeHaltsTheEngine := by
  unfold Obligations.OutOfRangeHaltsTheEngine
  refine ⟨fun i s => ⟨fun _ => exec_fault_halted, exec_not_refused i s⟩, fun s a h => ?_, fun s a v h => ?_,
    fun i s u r pl ea hl ho he h => ?_, fun i s u f pl ea hf ho he h => ?_, fun s a => debugRead_of_inRange,
    fun s t a hc hs hm => debugRead_congr hc hs hm a⟩
  · refine ⟨busRead_of_outOfRange h, ⟨_, memRead_of_outOfRange h, rfl⟩, debugRead_of_outOfRange h, ?_⟩
    rintro hr rfl
    exact ⟨_, step_of_ready_outOfRange hr h, rfl, rfl, rfl, rfl⟩
  · exact ⟨busWrite_of_outOfRange v h, _, memWrite_of_outOfRange v h, rfl⟩
  · have hu := effAddr_readsOnly he
    obtain ⟨ph, hx⟩ := exec_load_of_outOfRange hl ho he (hu.cfg ▸ h)
    refine ⟨_, hx, ?_, ?_⟩
    · rw [hu]; cases r <;> rfl
    · rw [hu]; rfl
  · have hu := effAddr_readsOnly he
    obtain ⟨ph, hx⟩ := exec_store_of_outOfRange hf ho he (hu.cfg ▸ h)
    exact ⟨_, hx, hu.mem⟩

end Sys2Proof
end

section
/-! SUPPORT. What an instruction costs: the table's base cycles and page penalties by mnemonic and mode, and the cycles
each shared operation adds to them. -/

namespace Sys2Proof

open Machine

/-! ### The table's columns (R141, R174, R543) -/

/-- The base cycles of each of the table's rows on each variant are those of the summary. -/
theorem baseCycles_eq_summary (v : Variant) (i : Instr) :
    i.baseCycles v = summaryCycles v i.mnemonic i.operand.mode := by
  cases i <;> cases v <;> rfl

/-- The rows that take the page-cross penalty, decided. -/
def pagePenaltyRow (v : Variant) (m : Mnemonic) (mode : Mode) : Bool :=
  (penaltyReaders.contains m && [.abx, .aby, .izy].contains mode) ||
    (v != .nmos6502 && shiftMnemonics.contains m && mode == .abx)

theorem pagePenaltyRow_iff {v : Variant} {m : Mnemonic} {mode : Mode} :
    pagePenaltyRow v m mode = true ↔ takesPagePenalty v m mode := by
  simp [pagePenaltyRow, takesPagePenalty, and_assoc]

/-- The penalty column of each of the table's rows on each variant. -/
theorem hasPagePenalty_eq_row (v : Variant) (i : Instr) :
    i.hasPagePenalty v = pagePenaltyRow v i.mnemonic i.operand.mode := by
  cases i <;> cases v <;> rfl

theorem hasPagePenalty_iff {v : Variant} {i : Instr} :
    i.hasPagePenalty v = true ↔ takesPagePenalty v i.mnemonic i.operand.mode := by
  rw [hasPagePenalty_eq_row, pagePenaltyRow_iff]

/-! ### The cycles an operation adds (R173 to R176) -/

namespace Machine

/-- What an operation adds to the base cost of a row that takes the page penalty. -/
def Timing.extra (t : Timing) : Nat := bit t.cross + t.branch + t.decimal

theorem bit_le_one (b : Bool) : bit b ≤ 1 := Bool.toNat_le b

/-- A cost lies between the base cost and the base cost with everything the operation adds. -/
theorem cost_bounds (v : Variant) (i : Instr) (t : Timing) :
    i.baseCycles v ≤ cost v i t ∧ cost v i t ≤ i.baseCycles v + t.extra := by
  have h : bit (t.cross && i.hasPagePenalty v) ≤ bit t.cross := by
    cases t.cross with
    | false => exact le_rfl
    | true => exact bit_le_one _
  unfold cost Timing.extra
  omega

/-- A sequence of accesses that adds at most two cycles, where it completes. -/
def Access.Brief : Access Timing → Prop
  | .done t _ => t.extra ≤ 2
  | .outOfRange _ _ => True

theorem Access.Brief.bind {α : Type} (x : Access α) {f : α → State → Access Timing} (h : ∀ v t, (f v t).Brief) :
    (x.bind f).Brief := by
  cases x with
  | done v t => exact h v t
  | outOfRange p u => trivial

theorem Access.Brief.of_done {x : Access Timing} {ti : Timing} {t : State} (h : x.Brief) (hx : x = .done ti t) :
    ti.extra ≤ 2 := by
  subst hx
  exact h

/-- A page cross alone, or nothing. -/
theorem brief_cross (c : Bool) (s : State) : (Access.done { cross := c } s).Brief :=
  (bit_le_one c).trans one_le_two

/-- A page cross and the decimal cycle (R176). -/
theorem brief_decimal (c : Bool) (s t : State) : (Access.done { cross := c, decimal := decimalCycle s } t).Brief :=
  Nat.add_le_add (bit_le_one c) (bit_le_one _)

/-- The cycle of a taken branch and of its page cross (R175). -/
theorem brief_branch {taken : Nat} (h : taken ≤ 1) (next target : Addr) (s : State) :
    (Access.done { branch := branchCycles taken next target } s).Brief := by
  have hc := bit_le_one (crosses next target)
  show bit false + (taken + bit (crosses next target)) + 0 ≤ 2
  have hf : bit false = 0 := rfl
  omega

/-- An operation all of whose runs add at most two cycles. -/
def Brief (op : State → Access Timing) : Prop := ∀ s, (op s).Brief

theorem brief_registerOnly (f : State → State) : Brief (registerOnly f) := fun _ => brief_cross _ _

theorem brief_load (r : Reg) (src : Source) : Brief (load r src) := fun _ => .bind _ fun _ _ => brief_cross _ _

theorem brief_storeTo (pl : Place) (f : State → Byte) : Brief (storeTo pl f) := fun _ =>
  .bind _ fun _ _ => .bind _ fun _ _ => brief_cross _ _

theorem brief_push (f : State → Byte) : Brief fun s => (push (f s) s).bind fun _ s => .done {} s := fun _ =>
  .bind _ fun _ _ => brief_cross _ _

theorem brief_pullReg (r : Reg) : Brief (pullReg r) := fun _ => .bind _ fun _ _ => brief_cross _ _

theorem brief_pullFlags : Brief pullFlags := fun _ => .bind _ fun _ _ => brief_cross _ _

theorem brief_addToA (src : Source) : Brief (addToA src) := fun _ => .bind _ fun _ _ => brief_decimal _ _ _

theorem brief_subFromA (src : Source) : Brief (subFromA src) := fun _ => .bind _ fun _ _ => brief_decimal _ _ _

theorem brief_compareReg (r : Reg) (src : Source) : Brief (compareReg r src) := fun _ =>
  .bind _ fun _ _ => brief_cross _ _

theorem brief_logic (f : Byte → Byte → Byte) (src : Source) : Brief (logic f src) := fun _ =>
  .bind _ fun _ _ => brief_cross _ _

theorem brief_testA (f : Byte → Byte → Flags → Flags) (src : Source) : Brief (testA f src) := fun _ =>
  .bind _ fun _ _ => brief_cross _ _

theorem brief_modifyFlagsFirst (pl : Place) (f : State → Byte → Byte × Flags) : Brief (modifyFlagsFirst pl f) :=
  fun _ => .bind _ fun _ _ => .bind _ fun _ _ => .bind _ fun _ _ => brief_cross _ _

theorem brief_modifyFlagsLast (pl : Place) (f : Byte → Byte) (fl : Byte → Flags → Flags) :
    Brief (modifyFlagsLast pl f fl) :=
  fun _ => .bind _ fun _ _ => .bind _ fun _ _ => .bind _ fun _ _ => brief_cross _ _

theorem brief_jump (a : Addr) : Brief (jump a) := fun _ => brief_cross _ _

theorem brief_jumpIndirect (a : Addr) : Brief (jumpIndirect a) := fun _ => .bind _ fun _ _ => brief_cross _ _

theorem brief_jumpIndexedIndirect (a : Addr) : Brief (jumpIndexedIndirect a) := fun _ =>
  .bind _ fun _ _ => brief_cross _ _

theorem brief_jumpSubroutine (a : Addr) : Brief (jumpSubroutine a) := fun _ => .bind _ fun _ _ => brief_cross _ _

theorem brief_returnFromSubroutine : Brief returnFromSubroutine := fun _ => .bind _ fun _ _ => brief_cross _ _

theorem brief_returnFromInterrupt : Brief returnFromInterrupt := fun _ => .bind _ fun _ _ => brief_cross _ _

theorem brief_softwareInterrupt : Brief softwareInterrupt := fun _ => .bind _ fun _ _ => brief_cross _ _

theorem brief_branchIf (cond : Flags → Bool) (r : Byte) : Brief (branchIf cond r) := fun s => by
  unfold branchIf
  split
  · exact brief_branch le_rfl _ _ _
  · exact brief_cross _ _

theorem brief_branchAlways (r : Byte) : Brief (branchAlways r) := fun _ => brief_branch zero_le_one _ _ _

theorem brief_branchOnBit (n : Nat) (want : Bool) (z r : Byte) : Brief (branchOnBit n want z r) := fun _ =>
  .bind _ fun _ _ => brief_branchIf _ _ _

/-- Every instruction but WAI and STP is the frame around an operation that stays within what an instruction may do and
adds at most two cycles. -/
theorem exec_brief {i : Instr} (hw : i ≠ .wai) (hs : i ≠ .stp) :
    ∃ op, (∀ s, exec i s = instruction i op s) ∧ Bounded op ∧ Brief op := by
  cases i
  case ldaIzx | ldaZp | ldaImm | ldaAbs | ldaIzy | ldaIzp | ldaZpx | ldaAby | ldaAbx | ldxImm | ldxZp | ldxAbs |
      ldxZpy | ldxAby | ldyImm | ldyZp | ldyAbs | ldyZpx | ldyAbx =>
    exact ⟨_, fun _ => exec_load rfl rfl, bounded_load _ _, brief_load _ _⟩
  case staIzx | staZp | staAbs | staIzy | staIzp | staZpx | staAby | staAbx | stxZp | stxAbs | stxZpy | styZp |
      styAbs | styZpx | stzZp | stzZpx | stzAbs | stzAbx =>
    exact ⟨_, fun _ => exec_store rfl rfl, bounded_storeTo _ _, brief_storeTo _ _⟩
  case tax | tay | tsx | txa | tya =>
    exact ⟨_, fun _ => exec_transfer rfl, bounded_transfer _ _, brief_registerOnly _⟩
  case txs =>
    exact ⟨_, fun _ => rfl, bounded_setReg (fun s => s.x) .sp, brief_registerOnly _⟩
  case pha | php | phx | phy =>
    exact ⟨_, fun _ => exec_push rfl, bounded_push _, brief_push _⟩
  case pla | plx | ply =>
    exact ⟨_, fun _ => exec_pull rfl, bounded_pullReg _, brief_pullReg _⟩
  case plp =>
    exact ⟨_, fun _ => rfl, bounded_pullFlags, brief_pullFlags⟩
  case adcIzx | adcZp | adcImm | adcAbs | adcIzy | adcIzp | adcZpx | adcAby | adcAbx =>
    exact ⟨_, fun _ => exec_adc rfl rfl, bounded_addToA _, brief_addToA _⟩
  case sbcIzx | sbcZp | sbcImm | sbcAbs | sbcIzy | sbcIzp | sbcZpx | sbcAby | sbcAbx =>
    exact ⟨_, fun _ => exec_sbc rfl rfl, bounded_subFromA _, brief_subFromA _⟩
  case cmpIzx | cmpZp | cmpImm | cmpAbs | cmpIzy | cmpIzp | cmpZpx | cmpAby | cmpAbx | cpxImm | cpxZp | cpxAbs |
      cpyImm | cpyZp | cpyAbs =>
    exact ⟨_, fun _ => exec_compare rfl rfl, bounded_compareReg _ _, brief_compareReg _ _⟩
  case andIzx | andZp | andImm | andAbs | andIzy | andIzp | andZpx | andAby | andAbx | eorIzx | eorZp | eorImm |
      eorAbs | eorIzy | eorIzp | eorZpx | eorAby | eorAbx | oraIzx | oraZp | oraImm | oraAbs | oraIzy | oraIzp |
      oraZpx | oraAby | oraAbx =>
    exact ⟨_, fun _ => exec_logic rfl rfl, bounded_logic _ _, brief_logic _ _⟩
  case bitImm v =>
    exact ⟨_, fun _ => rfl, bounded_testA testZero (.imm v), brief_testA _ _⟩
  case bitZp | bitAbs | bitZpx | bitAbx =>
    exact ⟨_, fun _ => exec_bitMem rfl rfl, bounded_testA _ _, brief_testA _ _⟩
  case aslAcc | lsrAcc | rolAcc | rorAcc =>
    exact ⟨_, fun _ => exec_shiftA rfl rfl, bounded_shiftA _, brief_registerOnly _⟩
  case aslZp | aslAbs | aslZpx | aslAbx | lsrZp | lsrAbs | lsrZpx | lsrAbx | rolZp | rolAbs | rolZpx | rolAbx |
      rorZp | rorAbs | rorZpx | rorAbx =>
    exact ⟨_, fun _ => exec_shiftMem rfl rfl, bounded_shiftMem _ _, brief_modifyFlagsFirst _ _⟩
  case decAcc | incAcc =>
    exact ⟨_, fun _ => exec_incDecA rfl rfl, bounded_changeReg _ _, brief_registerOnly _⟩
  case decZp | decAbs | decZpx | decAbx | incZp | incAbs | incZpx | incAbx =>
    exact ⟨_, fun _ => exec_incDecMem rfl rfl, bounded_modifyFlagsLast _ _ _, brief_modifyFlagsLast _ _ _⟩
  case dex | dey | inx | iny =>
    exact ⟨_, fun _ => exec_indexStep rfl, bounded_changeReg _ _, brief_registerOnly _⟩
  case trbZp | trbAbs | tsbZp | tsbAbs =>
    exact ⟨_, fun _ => exec_testAndSet rfl rfl, bounded_testAndChange _ _, brief_modifyFlagsFirst _ _⟩
  case rmb0 | rmb1 | rmb2 | rmb3 | rmb4 | rmb5 | rmb6 | rmb7 =>
    exact ⟨_, fun _ => exec_resetBit rfl rfl, bounded_changeBits _ _, brief_modifyFlagsLast _ _ _⟩
  case smb0 | smb1 | smb2 | smb3 | smb4 | smb5 | smb6 | smb7 =>
    exact ⟨_, fun _ => exec_setBit rfl rfl, bounded_changeBits _ _, brief_modifyFlagsLast _ _ _⟩
  case jmpAbs =>
    exact ⟨_, fun _ => rfl, bounded_jump _, brief_jump _⟩
  case jmpInd =>
    exact ⟨_, fun _ => rfl, bounded_jumpIndirect _, brief_jumpIndirect _⟩
  case jmpIax =>
    exact ⟨_, fun _ => rfl, bounded_jumpIndexedIndirect _, brief_jumpIndexedIndirect _⟩
  case jsr =>
    exact ⟨_, fun _ => rfl, bounded_jumpSubroutine _, brief_jumpSubroutine _⟩
  case rts =>
    exact ⟨_, fun _ => rfl, bounded_returnFromSubroutine, brief_returnFromSubroutine⟩
  case rti =>
    exact ⟨_, fun _ => rfl, bounded_returnFromInterrupt, brief_returnFromInterrupt⟩
  case brk =>
    exact ⟨_, fun _ => rfl, bounded_softwareInterrupt, brief_softwareInterrupt⟩
  case bcc | bcs | beq | bmi | bne | bpl | bvc | bvs =>
    exact ⟨_, fun _ => exec_branch rfl rfl, bounded_branchIf _ _, brief_branchIf _ _⟩
  case bra =>
    exact ⟨_, fun _ => rfl, bounded_branchAlways _, brief_branchAlways _⟩
  case bbr0 | bbr1 | bbr2 | bbr3 | bbr4 | bbr5 | bbr6 | bbr7 | bbs0 | bbs1 | bbs2 | bbs3 | bbs4 | bbs5 | bbs6 |
      bbs7 =>
    exact ⟨_, fun _ => exec_bitBranch rfl rfl, bounded_branchOnBit _ _ _ _, brief_branchOnBit _ _ _ _⟩
  case clc | cld | cli | clv | sec | sed | sei =>
    exact ⟨_, fun _ => exec_flag rfl, bounded_flags _, brief_registerOnly _⟩
  case nop =>
    exact ⟨_, fun _ => rfl, bounded_nop, brief_registerOnly _⟩
  case wai =>
    exact absurd rfl hw
  case stp =>
    exact absurd rfl hs

/-- An instruction that answers a next state has charged its cost, with at most two cycles beyond the base cost, and has
cleared `skip_pc_bp` (R170, R173). -/
theorem exec_charges {i : Instr} {s t : State} (h : exec i s = .next t) :
    t.skipPcBp = false ∧ ∃ ti : Timing, ti.extra ≤ 2 ∧ t.tickCycles = s.tickCycles + cost s.cfg.variant i ti := by
  by_cases hw : i = .wai
  · subst hw
    rw [exec_wai] at h
    cases h
    exact ⟨rfl, {}, Nat.zero_le _, rfl⟩
  by_cases hs : i = .stp
  · subst hs
    rw [exec_stp] at h
    cases h
    exact ⟨rfl, {}, Nat.zero_le _, rfl⟩
  obtain ⟨op, he, hbd, hbr⟩ := exec_brief hw hs
  rw [he] at h
  obtain ⟨ti, u, hu, rfl⟩ := instruction_next.1 h
  have ho : Operates (s.advance i) u := by
    have := hbd (s.advance i)
    rwa [hu] at this
  refine ⟨rfl, ti, (hbr _).of_done hu, ?_⟩
  show u.tickCycles + cost u.cfg.variant i ti = s.tickCycles + cost s.cfg.variant i ti
  rw [ho.same]
  rfl

/-- Where a crossed page is not charged, or the page was not crossed, the cost is the rest (R173, R174). -/
theorem cost_eq (v : Variant) (i : Instr) (t : Timing) :
    (t.cross = true ∧ takesPagePenalty v i.mnemonic i.operand.mode →
      cost v i t = i.baseCycles v + 1 + t.branch + t.decimal) ∧
    (¬ (t.cross = true ∧ takesPagePenalty v i.mnemonic i.operand.mode) →
      cost v i t = i.baseCycles v + t.branch + t.decimal) := by
  rw [← hasPagePenalty_iff, ← Bool.and_eq_true_iff, Bool.not_eq_true]
  refine ⟨fun h => ?_, fun h => ?_⟩
  · rw [cost, h]; rfl
  · rw [cost, h]; rfl

end Machine

/-- Settles O7: an instruction is its operation, which completes in range and adds at most two cycles; the table's
columns are compared row by row. -/
theorem everyInstructionCompletes : Obligations.EveryInstructionCompletes := by
  unfold Obligations.EveryInstructionCompletes
  refine ⟨fun i s hm => ?_, fun v i t => ⟨baseCycles_eq_summary v i, cost_eq v i t⟩⟩
  obtain ⟨t, ht⟩ := exec_completes hm i
  obtain ⟨hskip, ti, hextra, hticks⟩ := exec_charges ht
  obtain ⟨hlow, hhigh⟩ := cost_bounds s.cfg.variant i ti
  exact ⟨t, ht, hskip, by omega, by omega⟩

end Sys2Proof
end

section
/-! SUPPORT. Loads, stores and transfers read forwards: the state each class of instruction leads to, with its cost. -/

namespace Sys2Proof

open Machine

namespace Machine

/-- PC alone moves before the operation (R179). -/
@[simp] theorem State.advance_reg (s : State) (i : Instr) (r : Reg) : (s.advance i).reg r = s.reg r := by
  cases r <;> rfl

/-- Data reads leave every register alone. -/
theorem ReadsOnly.reg {s t : State} (h : ReadsOnly s t) (r : Reg) : t.reg r = s.reg r := by
  rw [h]
  cases r <;> rfl

/-- Data reads leave the flags alone. -/
theorem ReadsOnly.p {s t : State} (h : ReadsOnly s t) : t.p = s.p := by rw [h]

/-- A register written with N and Z, over flags that are those of `q` (R230). -/
theorem State.setRegNZ_eq_of_p {s : State} {q : Flags} (h : s.p = q) (r : Reg) (v : Byte) :
    s.setRegNZ r v = { s.setReg r v with p := { q with n := v.getLsbD 7, z := v == 0 } } := by
  rw [← h]
  rfl

/-- An operation that adds nothing costs the base cycles. -/
theorem cost_base (v : Variant) (i : Instr) : cost v i {} = i.baseCycles v := rfl

/-- A load is its operand read, then the register with N and Z (R231 to R233). -/
theorem exec_load_next {i : Instr} {s u : State} {r : Reg} {src : Source} {m : OperandByte}
    (hr : loadTarget i.mnemonic = some r) (hs : i.operand.source? = some src)
    (h : readSource src (s.advance i) = .done m u) :
    exec i s = .next ((u.setRegNZ r m.value).complete (cost s.cfg.variant i { cross := m.cross })) := by
  have hop : load r src (s.advance i) = .done { cross := m.cross } (u.setRegNZ r m.value) := by
    rw [load, h, Access.bind_done]
  have hc : (u.setRegNZ r m.value).cfg = s.cfg := (State.setRegNZ_cfg u r m.value).trans (readSource_done h).cfg
  rw [exec_load hr hs, instruction_done hop, hc]

/-- What a store stores depends on the registers alone (R234 to R237). -/
theorem storeValue_congr {m : Mnemonic} {f : State → Byte} (h : storeValue m = some f) {s t : State}
    (hreg : ∀ r, t.reg r = s.reg r) : f t = f s := by
  cases m <;> cases h
  case sta => exact hreg .a
  case stx => exact hreg .x
  case sty => exact hreg .y
  case stz => rfl

/-- No store is among the instructions that take a page penalty (R174). -/
theorem not_takesPagePenalty_of_store {v : Variant} {m : Mnemonic} (h : (storeValue m).isSome) (mode : Mode) :
    ¬ takesPagePenalty v m mode := by
  have hrows : ∀ n ∈ penaltyReaders ++ shiftMnemonics, (storeValue n).isSome = false := by decide
  have hm : m ∉ penaltyReaders ++ shiftMnemonics := fun hin => by simp [hrows m hin] at h
  rintro (⟨hin, -⟩ | ⟨-, hin, -⟩)
  · exact hm (List.mem_append_left _ hin)
  · exact hm (List.mem_append_right _ hin)

/-- A store is its operation at the base cost, crossed page or not (R174, R234 to R237). -/
theorem exec_store_next {i : Instr} {s t : State} {f : State → Byte} {pl : Place} {cross : Bool}
    (hf : storeValue i.mnemonic = some f) (hp : i.operand.place? = some pl)
    (h : storeTo pl f (s.advance i) = .done { cross := cross } t) :
    exec i s = .next (t.complete (i.baseCycles s.cfg.variant)) := by
  obtain ⟨ea, u, hea, hw, -⟩ := storeTo_done h
  have hc : t.cfg = s.cfg := (memWrite_accesses hw).cfg.trans (effAddr_readsOnly hea).cfg
  have hpen : i.hasPagePenalty s.cfg.variant = false :=
    Bool.not_eq_true _ ▸ mt hasPagePenalty_iff.1 (not_takesPagePenalty_of_store (by rw [hf]; rfl) _)
  rw [exec_store hf hp, instruction_done h, hc, cost_fixed hpen]

/-- A transfer copies a register with N and Z at the base cost (R238 to R242). -/
theorem exec_transfer_next {i : Instr} {s : State} {src dst : Reg} (h : transferPair i.mnemonic = some (src, dst)) :
    exec i s = .next (((s.advance i).setRegNZ dst (s.reg src)).complete (i.baseCycles s.cfg.variant)) := by
  have hop : transfer src dst (s.advance i) = .done {} ((s.advance i).setRegNZ dst (s.reg src)) := by
    rw [← State.advance_reg s i src]
    rfl
  rw [exec_transfer h, instruction_done hop, cost_base, State.setRegNZ_cfg, State.advance_cfg]

/-- TXS copies X to S and computes no flag (R243). -/
theorem exec_txs (s : State) :
    exec .txs s = .next (((s.advance .txs).setReg .sp s.x).complete (Instr.baseCycles s.cfg.variant .txs)) := rfl

end Machine

/-- Settles O11: the operand read completes in range, and leaves the flags that N and Z are set in. -/
theorem loadsComplete : Obligations.LoadsComplete := by
  unfold Obligations.LoadsComplete
  intro i s r src hr hs hm
  obtain ⟨m, u, hread, hu⟩ := readSource_completes (s := s.advance i) hm src
  have hp : u.p = s.p := hu.p
  exact ⟨m, u, hread, by rw [exec_load_next hr hs hread, State.setRegNZ_eq_of_p hp]⟩

/-- Settles O12: the store completes in range, its byte is unchanged by the mode's pointer reads, and no store takes the
page penalty. -/
theorem storesComplete : Obligations.StoresComplete := by
  unfold Obligations.StoresComplete
  intro i s f pl hf hp hm
  obtain ⟨ea, u, t, hea, hw, hstore⟩ := storeTo_completes (s := s.advance i) hm pl f
  have hreg : ∀ r, u.reg r = s.reg r := fun r => ((effAddr_readsOnly hea).reg r).trans (State.advance_reg s i r)
  rw [storeValue_congr hf hreg] at hw
  exact ⟨ea, u, t, hea, hw, exec_store_next hf hp hstore⟩

/-- Settles O13: a transfer is one register copy with N and Z, and TXS is one without. -/
theorem transfersComplete : Obligations.TransfersComplete := by
  unfold Obligations.TransfersComplete
  exact ⟨fun _ _ _ _ h => exec_transfer_next h, exec_txs⟩

end Sys2Proof
end

section
/-! SUPPORT. Stack instructions read forwards: the state a push, a pull and PLP lead to, with their cost. -/

namespace Sys2Proof

open Machine

namespace Machine

/-- A push after its write: S is one less (R15, R260). -/
theorem push_of_memWrite {v : Byte} {s u : State} (h : memWrite (stackAddr s.sp) v s = .done () u) :
    push v s = .done () { u with sp := s.sp - 1 } := by
  have hsp : u.sp = s.sp := by rw [(memWrite_accesses h).same]
  rw [push, h, Access.bind_done, hsp]

/-- What a push instruction pushes does not depend on PC (R261 to R264). -/
theorem pushValue_advance {m : Mnemonic} {f : State → Byte} (h : pushValue m = some f) (s : State) (i : Instr) :
    f (s.advance i) = f s := by
  cases m <;> cases h <;> rfl

/-- A push instruction is one write at the stack address, then S one less, at the base cost (R261 to R264). -/
theorem exec_push_next {i : Instr} {s u : State} {f : State → Byte} (hf : pushValue i.mnemonic = some f)
    (h : memWrite (stackAddr s.sp) (f s) (s.advance i) = .done () u) :
    exec i s = .next (({ u with sp := s.sp - 1 } : State).complete (i.baseCycles s.cfg.variant)) := by
  have hpush : push (f (s.advance i)) (s.advance i) = .done () { u with sp := s.sp - 1 } := by
    rw [pushValue_advance hf]
    exact push_of_memWrite h
  have hc : u.cfg = s.cfg := (memWrite_accesses h).cfg
  rw [exec_push hf, instruction_done (by rw [hpush, Access.bind_done]), cost_base, hc]

/-- A pull instruction is one pull, then the register with N and Z, at the base cost (R265, R267, R268). -/
theorem exec_pull_next {i : Instr} {s u : State} {r : Reg} {v : Byte} (hr : pullTarget i.mnemonic = some r)
    (h : pull (s.advance i) = .done v u) :
    exec i s = .next ((u.setRegNZ r v).complete (i.baseCycles s.cfg.variant)) := by
  have hop : pullReg r (s.advance i) = .done {} (u.setRegNZ r v) := by rw [pullReg, h, Access.bind_done]
  have hc : u.cfg = s.cfg := (pull_done h).2.cfg
  rw [exec_pull hr, instruction_done hop, cost_base, State.setRegNZ_cfg, hc]

/-- PLP is one pull, then the flags from the byte, at the base cost (R266). -/
theorem exec_plp_next {s u : State} {v : Byte} (h : pull (s.advance .plp) = .done v u) :
    exec .plp s = .next ((u.setFlagsP (flagsOfByte v)).complete (Instr.baseCycles s.cfg.variant .plp)) := by
  have hop : pullFlags (s.advance .plp) = .done {} (u.setFlagsP (flagsOfByte v)) := by
    rw [pullFlags, h, Access.bind_done]
  have hc : u.cfg = s.cfg := (pull_done h).2.cfg
  rw [show exec .plp s = instruction .plp pullFlags s from rfl, instruction_done hop, cost_base, State.setFlagsP_cfg, hc]

end Machine

/-- Settles O14: the one write completes in range, and the byte is the one before PC moved. -/
theorem pushesComplete : Obligations.PushesComplete := by
  unfold Obligations.PushesComplete
  intro i s f hf hm
  obtain ⟨u, hw, -⟩ := memWrite_completes (s := s.advance i) hm (stackAddr s.sp) (f s)
  exact ⟨u, hw, exec_push_next hf hw⟩

/-- Settles O15: the one read completes in range and leaves the flags that N and Z are set in; PLP replaces all six. -/
theorem pullsComplete : Obligations.PullsComplete := by
  unfold Obligations.PullsComplete
  refine ⟨fun i s r hr hm => ?_, fun s hm => ?_⟩
  · obtain ⟨v, u, hpull, hu⟩ := pull_completes (s := s.advance i) hm
    have hp : u.p = s.p := hu.p
    exact ⟨v, u, hpull, by rw [exec_pull_next hr hpull, State.setRegNZ_eq_of_p hp]⟩
  · obtain ⟨v, u, hpull, -⟩ := pull_completes (s := s.advance .plp) hm
    exact ⟨v, u, hpull, exec_plp_next hpull⟩

end Sys2Proof
end

section
/-! SUPPORT. Binary addition and subtraction of bytes read as numbers: result, carry, signed overflow, N and Z. -/

namespace Sys2Proof

open Machine

/-- A flag as a number, by its two values. -/
theorem bit_eq_ite (b : Bool) : bit b = if b then 1 else 0 := by
  cases b <;> rfl

/-- The borrow, which is the carry inverted, as a number. -/
theorem bit_not_eq_ite (c : Bool) : bit (!c) = if c then 0 else 1 := by
  cases c <;> rfl

theorem cast_bit_eq_ite (b : Bool) : (bit b : Int) = if b then 1 else 0 := by
  cases b <;> rfl

theorem cast_bit_not_eq_ite (c : Bool) : (bit (!c) : Int) = if c then 0 else 1 := by
  cases c <;> rfl

/-- A carry and its borrow make up one. -/
theorem bit_add_bit_not (c : Bool) : bit c + bit (!c) = 1 := by
  cases c <;> rfl

/-- Bit 7 of a byte is set from 128 on. -/
theorem getLsbD_seven (b : Byte) : b.getLsbD 7 = decide (128 ≤ b.toNat) :=
  BitVec.msb_eq_decide b

/-- The signed reading of a byte, from its number (R13). -/
theorem byte_toInt (b : Byte) : b.toInt = (b.toNat : Int) - if 128 ≤ b.toNat then 256 else 0 := by
  rw [BitVec.toInt_eq_toNat_cond]
  split <;> split <;> omega

/-- The mask 0x80 keeps the sign bit alone. -/
theorem and_signBit_ne_zero (b : Byte) : (b &&& 0x80 != 0) = b.getLsbD 7 := by
  have h : b &&& 0x80 = if b.getLsbD 7 then BitVec.twoPow 8 7 else 0 := BitVec.and_twoPow b 7
  rw [h]
  cases b.getLsbD 7 <;> rfl

/-- The ones' complement of a byte as a number. -/
theorem xor_ones_toNat (m : Byte) : (m ^^^ 0xFF).toNat = 255 - m.toNat := by
  rw [show (0xFF : Byte) = BitVec.allOnes 8 from rfl, BitVec.xor_allOnes, BitVec.toNat_not]

namespace Machine

variable (a m : Byte) (p : Flags)

/-- The result of binary addition is the sum modulo 256 (R280). -/
theorem addBinary_toNat : (addBinary a m p).1.toNat = (a.toNat + m.toNat + bit p.c) % 256 :=
  BitVec.toNat_ofNat _ _

/-- The carry out of binary addition (R280). -/
theorem addBinary_c : (addBinary a m p).2.c = decide (a.toNat + m.toNat + bit p.c > 0xFF) := rfl

/-- V of binary addition by its formula (R280). -/
theorem addBinary_v :
    (addBinary a m p).2.v = decide ((a ^^^ (addBinary a m p).1) &&& (m ^^^ (addBinary a m p).1) &&& 0x80 ≠ 0) :=
  (decide_not (p := _ = _)).symm

/-- V by the sign bits: the result's differs from both operands' (R280). -/
theorem addBinary_v_signs :
    (addBinary a m p).2.v =
      ((a.getLsbD 7 ^^ (addBinary a m p).1.getLsbD 7) && (m.getLsbD 7 ^^ (addBinary a m p).1.getLsbD 7)) := by
  show ((a ^^^ (addBinary a m p).1) &&& (m ^^^ (addBinary a m p).1) &&& 0x80 != 0) = _
  rw [and_signBit_ne_zero, BitVec.getLsbD_and, BitVec.getLsbD_xor, BitVec.getLsbD_xor]

/-- V of binary addition is the signed overflow (R280). -/
theorem addBinary_v_signed :
    (addBinary a m p).2.v = decide (a.toInt + m.toInt + bit p.c < -128 ∨ 127 < a.toInt + m.toInt + bit p.c) := by
  have ha := a.isLt
  have hm := m.isLt
  have hc : bit p.c ≤ 1 := bit_le_one p.c
  rw [addBinary_v_signs, byte_toInt a, byte_toInt m, getLsbD_seven, getLsbD_seven, getLsbD_seven, addBinary_toNat,
    Bool.eq_iff_iff]
  simp only [Bool.and_eq_true, bne_iff_ne, ne_eq, decide_eq_decide, decide_eq_true_eq]
  split <;> split <;> omega

/-- The sum of binary subtraction, in terms of the difference and the borrow (R283). -/
theorem complement_sum (c : Bool) :
    a.toNat + (m ^^^ 0xFF).toNat + bit c + m.toNat + bit (!c) = a.toNat + 256 := by
  have hm := m.isLt
  have hc := bit_add_bit_not c
  rw [xor_ones_toNat]
  omega

/-- With C = 1 binary subtraction subtracts M exactly (R283). -/
theorem subBinary_of_carry {p : Flags} (h : p.c = true) : (subBinary a m p).1 = a - m := by
  have hm := m.isLt
  apply BitVec.eq_of_toNat_eq
  rw [subBinary, addBinary_toNat, xor_ones_toNat, BitVec.toNat_sub, h, show bit true = 1 from rfl]
  omega

/-- The carry of binary subtraction says that no borrow was taken (R283). -/
theorem subBinary_c :
    (subBinary a m p).2.c = decide (m.toNat + bit (!p.c) ≤ a.toNat) := by
  have hsum := complement_sum a m p.c
  rw [subBinary, addBinary_c, decide_eq_decide]
  omega

end Machine

/-- Settles O18: the model's sum is the spec's, and V of the sign bits is the overflow of the signed sum. -/
theorem binaryAddition : Obligations.BinaryAddition := by
  unfold Obligations.BinaryAddition
  intro a m p
  rw [← bit_eq_ite, ← cast_bit_eq_ite]
  exact ⟨addBinary_toNat a m p, rfl, addBinary_v a m p, addBinary_v_signed a m p, rfl, rfl, rfl, rfl⟩

/-- Settles O19: subtraction is addition of the complement, whose sum is 256 more than the difference. -/
theorem binarySubtraction : Obligations.BinarySubtraction := by
  unfold Obligations.BinarySubtraction
  intro a m p
  rw [← bit_eq_ite, ← bit_not_eq_ite]
  exact ⟨addBinary_toNat _ _ _, complement_sum a m p.c, rfl, subBinary_c a m p, addBinary_v _ _ _, rfl, rfl, rfl, rfl,
    subBinary_of_carry a m⟩

end Sys2Proof
end

section
/-! SUPPORT. Decimal addition and subtraction of bytes read as numbers: the nibbles, the corrected results, and what
they are of bytes of two decimal digits. -/

namespace Sys2Proof

open Machine

/-! ### Nibbles and digits -/

/-- The low nibble of a byte. -/
theorem lowNibble_toNat (b : Byte) : (b &&& 0x0F).toNat = b.toNat % 16 := by
  rw [BitVec.toNat_and]
  exact Nat.and_two_pow_sub_one_eq_mod b.toNat 4

/-- The high nibble of a byte, in its place. -/
theorem highNibble_toNat (b : Byte) : (b &&& 0xF0).toNat = b.toNat / 16 * 16 := by
  have hb := b.isLt
  have h : b &&& (0xF0 : Byte) = b >>> 4 <<< 4 := (BitVec.shiftLeft_ushiftRight (x := b) (n := 4)).symm
  rw [h, BitVec.toNat_shiftLeft, BitVec.toNat_ushiftRight, Nat.shiftLeft_eq, Nat.shiftRight_eq_div_pow]
  omega

/-- The high nibble read as signed, in its place (R281). -/
theorem s8_highNibble (b : Byte) :
    s8 (b &&& 0xF0) = ((b.toNat / 16 * 16 : Nat) : Int) - if 128 ≤ b.toNat then 256 else 0 := by
  rw [s8, byte_toInt, highNibble_toNat]
  split <;> split <;> omega

/-- A byte made of an integer is the integer modulo 256. -/
theorem toNat_ofInt_byte (t : Int) : ((BitVec.ofInt 8 t).toNat : Int) = t % 256 := by
  rw [BitVec.toNat_ofInt]
  omega

/-- The byte of the two decimal digits of a number below 100. -/
def decimalByte (n : Nat) : Byte := BitVec.ofNat 8 (16 * (n / 10) + n % 10)

theorem decimalByte_toNat {n : Nat} (h : n < 100) : (decimalByte n).toNat = 16 * (n / 10) + n % 10 := by
  rw [decimalByte, BitVec.toNat_ofNat]
  omega

/-- The byte of two digits is zero for 0 alone. -/
theorem decimalByte_eq_zero {n : Nat} (h : n < 100) : decimalByte n = 0 ↔ n = 0 := by
  rw [← BitVec.toNat_inj, decimalByte_toNat h, show (0 : Byte).toNat = 0 from rfl]
  omega

/-- The digits of a decimal difference: a borrow into the low digit adds 10 there and takes 1 from the high digit,
and one into the high digit adds 10 there. -/
theorem decimal_difference_digits {x y b : Nat} (hx : x < 100) (hy : y < 100) (hb : b ≤ 1) :
    (x + 100 - y - b) % 100 % 10 = x % 10 + (if x % 10 < y % 10 + b then 10 else 0) - y % 10 - b ∧
    (x + 100 - y - b) % 100 / 10 =
      x / 10 + (if x < y + b then 10 else 0) - (if x % 10 < y % 10 + b then 1 else 0) - y / 10 := by
  split_ifs <;> omega

/-- The byte of the digits of a difference, from the bytes of the operands' digits: 6 less for a borrow into the low
digit, and 0xA0 more for one into the high digit. -/
theorem decimalByte_difference_toNat {x y b : Nat} (hx : x < 100) (hy : y < 100) (hb : b ≤ 1) :
    ((decimalByte ((x + 100 - y - b) % 100)).toNat : Int) =
      (decimalByte x).toNat - (decimalByte y).toNat - b + (if x < y + b then 0xA0 else 0) -
        (if x % 10 < y % 10 + b then 0x06 else 0) := by
  obtain ⟨hlow, hhigh⟩ := decimal_difference_digits hx hy hb
  rw [decimalByte_toNat (Nat.mod_lt _ (by decide)), decimalByte_toNat hx, decimalByte_toNat hy, hlow, hhigh]
  split_ifs <;> omega

namespace Machine

/-! ### Addition -/

section Addition

variable (a m : Byte) (c : Bool)

/-- The low-digit sum as a number (R281). -/
theorem decimalLow_eq :
    decimalLow a m c =
      if 10 ≤ a.toNat % 16 + m.toNat % 16 + bit c then (a.toNat % 16 + m.toNat % 16 + bit c + 6) % 16 + 16
      else a.toNat % 16 + m.toNat % 16 + bit c := by
  rw [decimalLow, lowNibble_toNat, lowNibble_toNat]
  simp only [ge_iff_le, show ∀ n, n &&& 0x0F = n % 16 from fun n => Nat.and_two_pow_sub_one_eq_mod n 4]

/-- The corrected sum as a number (R281). -/
theorem decimalSum_eq :
    decimalSum a m c =
      if 0xA0 ≤ a.toNat / 16 * 16 + m.toNat / 16 * 16 + decimalLow a m c
      then a.toNat / 16 * 16 + m.toNat / 16 * 16 + decimalLow a m c + 0x60
      else a.toNat / 16 * 16 + m.toNat / 16 * 16 + decimalLow a m c := by
  rw [decimalSum, highNibble_toNat, highNibble_toNat]

/-- The signed intermediate as a number (R281). -/
theorem decimalSigned_eq :
    decimalSigned a m c =
      ((a.toNat / 16 * 16 : Nat) : Int) - (if 128 ≤ a.toNat then 256 else 0) +
        (((m.toNat / 16 * 16 : Nat) : Int) - (if 128 ≤ m.toNat then 256 else 0)) + decimalLow a m c := by
  rw [decimalSigned, s8_highNibble, s8_highNibble]

end Addition

/-- The corrected sum of two bytes of digits: the digits of the sum modulo 100, and 256 for the decimal carry. -/
theorem decimalSum_decimalByte {x y : Nat} (hx : x < 100) (hy : y < 100) (c : Bool) :
    decimalSum (decimalByte x) (decimalByte y) c =
      256 * ((x + y + bit c) / 100) + (16 * ((x + y + bit c) % 100 / 10) + (x + y + bit c) % 100 % 10) := by
  have hc := bit_le_one c
  rw [decimalSum_eq, decimalLow_eq, decimalByte_toNat hx, decimalByte_toNat hy]
  split <;> split <;> omega

/-- Decimal addition of two bytes of digits gives the digits of the sum modulo 100. -/
theorem addDecimalCmos_decimalByte {x y : Nat} (hx : x < 100) (hy : y < 100) (p : Flags) :
    (addDecimalCmos (decimalByte x) (decimalByte y) p).1 = decimalByte ((x + y + bit p.c) % 100) := by
  apply BitVec.eq_of_toNat_eq
  show (BitVec.ofNat 8 (decimalSum _ _ p.c)).toNat = _
  rw [decimalSum_decimalByte hx hy, BitVec.toNat_ofNat, decimalByte_toNat (Nat.mod_lt _ (by decide))]
  omega

/-- The carry of two bytes of digits is the decimal carry. -/
theorem addDecimalCmos_c_decimalByte {x y : Nat} (hx : x < 100) (hy : y < 100) (p : Flags) :
    (addDecimalCmos (decimalByte x) (decimalByte y) p).2.c = decide (100 ≤ x + y + bit p.c) := by
  show decide (decimalSum _ _ p.c ≥ 0x100) = _
  rw [decimalSum_decimalByte hx hy, decide_eq_decide]
  omega

/-- N of NMOS decimal addition is bit 7 of the signed intermediate as a byte (R282). -/
theorem addDecimalNmos_n (a m : Byte) (p : Flags) :
    (addDecimalNmos a m p).2.n = decide (128 ≤ decimalSigned a m p.c % 256) := by
  have h := toNat_ofInt_byte (decimalSigned a m p.c)
  show (BitVec.ofInt 8 (decimalSigned a m p.c)).getLsbD 7 = _
  rw [getLsbD_seven, decide_eq_decide]
  omega

/-- Z of NMOS decimal addition is that of the binary sum (R282). -/
theorem addDecimalNmos_z (a m : Byte) (p : Flags) :
    (addDecimalNmos a m p).2.z = decide ((a.toNat + m.toNat + bit p.c) % 256 = 0) := by
  show decide (BitVec.ofNat 8 (a.toNat + m.toNat + bit p.c) = 0) = _
  rw [decide_eq_decide, ← BitVec.toNat_inj, BitVec.toNat_ofNat]
  rfl

/-! ### Subtraction -/

section Subtraction

variable (a m : Byte)

/-- The carry in, less one, is the borrow taken off (R284, R285). -/
theorem bit_sub_one (n : Int) (c : Bool) : n + bit c - 1 = n - bit (!c) := by
  have hc := bit_add_bit_not c
  omega

/-- The low-digit difference as a number (R284, R285). -/
theorem decimalLowDiff_eq (c : Bool) :
    decimalLowDiff a m c = ((a.toNat % 16 : Nat) : Int) - (m.toNat % 16 : Nat) - bit (!c) := by
  rw [decimalLowDiff, lowNibble_toNat, lowNibble_toNat, bit_sub_one]

variable (p : Flags)

/-- The corrected difference on CMOS as a number (R284). -/
theorem subDecimalCmos_toNat :
    let t : Int := (a.toNat : Int) - m.toNat - bit (!p.c)
    ((subDecimalCmos a m p).1.toNat : Int) =
      ((if t < 0 then t - 0x60 else t) - if decimalLowDiff a m p.c < 0 then 0x06 else 0) % 256 := by
  intro t
  simp only [subDecimalCmos]
  rw [toNat_ofInt_byte, bit_sub_one]
  split <;> simp only [t, Int.sub_zero]

/-- The corrected difference on NMOS as a number (R285). -/
theorem subDecimalNmos_toNat :
    let low := decimalLowDiff a m p.c
    let corrected := if low < 0 then (low - 0x06) % 16 - 0x10 else low
    let t : Int := ((a.toNat / 16 * 16 : Nat) : Int) - (m.toNat / 16 * 16 : Nat) + corrected
    ((subDecimalNmos a m p).1.toNat : Int) = (if t < 0 then t - 0x60 else t) % 256 := by
  intro low corrected t
  simp only [subDecimalNmos]
  rw [toNat_ofInt_byte, highNibble_toNat, highNibble_toNat]

end Subtraction

/-- The low-digit difference of two bytes of digits is that of the low digits. -/
theorem decimalLowDiff_decimalByte {x y : Nat} (hx : x < 100) (hy : y < 100) (c : Bool) :
    decimalLowDiff (decimalByte x) (decimalByte y) c = ((x % 10 : Nat) : Int) - (y % 10 : Nat) - bit (!c) := by
  rw [decimalLowDiff_eq, decimalByte_toNat hx, decimalByte_toNat hy]
  omega

/-- Decimal subtraction on CMOS of two bytes of digits gives the digits of the difference modulo 100. -/
theorem subDecimalCmos_decimalByte {x y : Nat} (hx : x < 100) (hy : y < 100) (p : Flags) :
    (subDecimalCmos (decimalByte x) (decimalByte y) p).1 =
      decimalByte ((x + 100 - y - bit (!p.c)) % 100) := by
  have h := subDecimalCmos_toNat (decimalByte x) (decimalByte y) p
  have hb := bit_le_one (!p.c)
  have hd := decimalByte_difference_toNat hx hy hb
  simp only [decimalLowDiff_decimalByte hx hy, decimalByte_toNat hx, decimalByte_toNat hy] at h hd
  apply BitVec.eq_of_toNat_eq
  split_ifs at h hd <;> omega

/-- Decimal subtraction on NMOS of two bytes of digits gives the same. -/
theorem subDecimalNmos_decimalByte {x y : Nat} (hx : x < 100) (hy : y < 100) (p : Flags) :
    (subDecimalNmos (decimalByte x) (decimalByte y) p).1 =
      decimalByte ((x + 100 - y - bit (!p.c)) % 100) := by
  have h := subDecimalNmos_toNat (decimalByte x) (decimalByte y) p
  have hb := bit_le_one (!p.c)
  have hd := decimalByte_difference_toNat hx hy hb
  simp only [decimalLowDiff_decimalByte hx hy, decimalByte_toNat hx, decimalByte_toNat hy] at h hd
  apply BitVec.eq_of_toNat_eq
  split_ifs at h hd <;> omega

/-- The carry of the subtraction of two bytes of digits says that no decimal borrow was taken. -/
theorem subBinary_c_decimalByte {x y : Nat} (hx : x < 100) (hy : y < 100) (p : Flags) :
    (subBinary (decimalByte x) (decimalByte y) p).2.c = decide (y + bit (!p.c) ≤ x) := by
  rw [subBinary_c, decimalByte_toNat hx, decimalByte_toNat hy, decide_eq_decide]
  have hb := bit_le_one (!p.c)
  omega

end Machine

/-- Settles O20: the nibbles of the model are quotient and remainder by 16, and of two bytes of digits the corrected
sum is that of its digits. -/
theorem decimalAddition : Obligations.DecimalAddition := by
  unfold Obligations.DecimalAddition
  refine ⟨fun a m p => ?_, fun p x y hx hy => ?_⟩
  · rw [← bit_eq_ite]
    intro c digit lo sum t signed sv cmos nmos
    have hlo : decimalLow a m p.c = lo := decimalLow_eq a m p.c
    have ht : decimalSum a m p.c = t := by rw [decimalSum_eq, hlo]
    have hsv : decimalSigned a m p.c = sv := by rw [decimalSigned_eq, hlo]
    refine ⟨?_, ?_, rfl, ?_⟩
    · rw [← ht]
      exact BitVec.toNat_ofNat _ _
    · rw [← ht, ← hsv]
      rfl
    · rw [← hsv, ← addDecimalNmos_n, ← addDecimalNmos_z]
      rfl
  · rw [← bit_eq_ite]
    have hr := addDecimalCmos_decimalByte hx hy p
    refine ⟨hr, addDecimalCmos_c_decimalByte hx hy p, rfl, ?_, rfl, rfl, rfl, rfl, rfl, rfl, rfl, rfl⟩
    show decide ((addDecimalCmos (decimalByte x) (decimalByte y) p).1 = 0) = _
    rw [hr, decide_eq_decide]
    exact decimalByte_eq_zero (Nat.mod_lt _ (by decide))

/-- Settles O21: the model's corrected differences are the spec's, and of two bytes of digits both are the digits of
the decimal difference. -/
theorem decimalSubtraction : Obligations.DecimalSubtraction := by
  unfold Obligations.DecimalSubtraction
  refine ⟨fun a m p => ?_, fun p x y hx hy => ?_⟩
  · rw [← cast_bit_not_eq_ite]
    have hcmos := subDecimalCmos_toNat a m p
    have hnmos := subDecimalNmos_toNat a m p
    rw [decimalLowDiff_eq] at hcmos hnmos
    exact ⟨hcmos, rfl, hnmos, rfl, rfl, rfl, rfl, rfl⟩
  · rw [← bit_not_eq_ite]
    have hr := subDecimalCmos_decimalByte hx hy p
    exact ⟨hr, subBinary_c_decimalByte hx hy p, rfl, rfl, (subDecimalNmos_decimalByte hx hy p).trans hr.symm, rfl⟩

end Sys2Proof
end

section
/-! SUPPORT. Arithmetic instructions read forwards: the state ADC, SBC, the compares and the increments lead to, with
their cost. -/

namespace Sys2Proof

open Machine

namespace Machine

/-! ### ADC and SBC -/

/-- The operation ADC and SBC share: A and the flags by `f` of A and the operand byte, and the decimal cycle (R176,
R286, R287). -/
def accumulate (f : Variant → Byte → Byte → Flags → Byte × Flags) (src : Source) (s : State) : Access Timing :=
  (readSource src s).bind fun m s =>
  let r := f s.cfg.variant s.a m.value s.p
  .done { cross := m.cross, decimal := decimalCycle s } { s with a := r.1, p := r.2 }

theorem addToA_eq_accumulate (src : Source) : addToA src = accumulate addWithCarry src := rfl

theorem subFromA_eq_accumulate (src : Source) : subFromA src = accumulate subWithBorrow src := rfl

/-- An instruction that is `accumulate` is its operand read, then A and the flags, at the cost of its page cross and
decimal cycle. -/
theorem exec_accumulate_next {i : Instr} {s u : State} {f : Variant → Byte → Byte → Flags → Byte × Flags}
    {src : Source} {m : OperandByte} (he : exec i s = instruction i (accumulate f src) s)
    (h : readSource src (s.advance i) = .done m u) :
    let r := f s.cfg.variant s.a m.value s.p
    exec i s = .next
      (({ u with a := r.1, p := r.2 } : State).complete
        (cost s.cfg.variant i { cross := m.cross, decimal := decimalCycle s })) := by
  intro r
  have hu := readSource_done h
  have hcfg : u.cfg = s.cfg := hu.cfg
  have hp : u.p = s.p := hu.p
  have ha : u.a = s.a := hu.reg .a
  have hop : accumulate f src (s.advance i) =
      .done { cross := m.cross, decimal := decimalCycle s } { u with a := r.1, p := r.2 } := by
    rw [accumulate, h, Access.bind_done, decimalCycle, hcfg, hp, ha, decimalCycle]
  rw [he, instruction_done hop, hcfg]

/-- CMOS is every variant but the NMOS one (R10). -/
theorem cmos_eq_false_iff {v : Variant} : v.cmos = false ↔ v = .nmos6502 := by
  cases v <;> decide

/-- The choice of rule by D and the variant, NMOS named first (R286, R287). -/
theorem ite_decimal_cmos {α : Type} (v : Variant) (d : Bool) (binary cmos nmos : α) :
    (if d then if v.cmos then cmos else nmos else binary) =
      if d = false then binary else if v = .nmos6502 then nmos else cmos := by
  cases d with
  | false => rfl
  | true => simp only [← cmos_eq_false_iff]; cases v.cmos <;> rfl

/-- ADC's rule (R286). -/
theorem addWithCarry_eq (v : Variant) (a m : Byte) (p : Flags) :
    addWithCarry v a m p =
      if p.d = false then addBinary a m p
      else if v = .nmos6502 then addDecimalNmos a m p else addDecimalCmos a m p :=
  ite_decimal_cmos _ _ _ _ _

/-- SBC's rule (R287). -/
theorem subWithBorrow_eq (v : Variant) (a m : Byte) (p : Flags) :
    subWithBorrow v a m p =
      if p.d = false then subBinary a m p
      else if v = .nmos6502 then subDecimalNmos a m p else subDecimalCmos a m p :=
  ite_decimal_cmos _ _ _ _ _

/-- The decimal cycle is charged on CMOS with D set (R176). -/
theorem decimalCycle_eq (s : State) :
    decimalCycle s = if s.p.d = true ∧ s.cfg.variant ≠ .nmos6502 then 1 else 0 := by
  have hcmos : s.cfg.variant ≠ .nmos6502 ↔ s.cfg.variant.cmos = true := by
    rw [ne_eq, ← cmos_eq_false_iff, Bool.not_eq_false]
  rw [decimalCycle, bit_eq_ite, Bool.and_comm]
  simp only [Bool.and_eq_true, hcmos]

/-! ### Compares -/

/-- A compare is its operand read, then C, Z and N (R288 to R291). -/
theorem exec_compare_next {i : Instr} {s u : State} {r : Reg} {src : Source} {m : OperandByte}
    (hr : compareSubject i.mnemonic = some r) (hs : i.operand.source? = some src)
    (h : readSource src (s.advance i) = .done m u) :
    exec i s = .next
      ((u.setFlagsP (compareFlags (s.reg r) m.value s.p)).complete (cost s.cfg.variant i { cross := m.cross })) := by
  have hu := readSource_done h
  have hcfg : u.cfg = s.cfg := hu.cfg
  have hp : u.p = s.p := hu.p
  have hreg : u.reg r = s.reg r := (hu.reg r).trans (State.advance_reg s i r)
  have hop : compareReg r src (s.advance i) =
      .done { cross := m.cross } (u.setFlagsP (compareFlags (s.reg r) m.value s.p)) := by
    rw [compareReg, h, Access.bind_done, hreg, hp]
  rw [exec_compare hr hs, instruction_done hop, State.setFlagsP_cfg, hcfg]

/-! ### Increments and decrements -/

/-- INC and DEC are not among the instructions that take a page penalty (R174). -/
theorem hasPagePenalty_of_incDec {v : Variant} {i : Instr} (h : (incDecOp i.mnemonic).isSome) :
    i.hasPagePenalty v = false := by
  have hrows : ∀ n ∈ penaltyReaders ++ shiftMnemonics, (incDecOp n).isSome = false := by decide
  have hm : i.mnemonic ∉ penaltyReaders ++ shiftMnemonics := fun hin => by simp [hrows _ hin] at h
  rw [← Bool.not_eq_true, hasPagePenalty_iff]
  rintro (⟨hin, -⟩ | ⟨-, hin, -⟩)
  · exact hm (List.mem_append_left _ hin)
  · exact hm (List.mem_append_right _ hin)

/-- An operation that changes one register by `f` writes it with N and Z, at the base cost (R292 to R297). -/
theorem exec_changeReg_next {i : Instr} {s : State} {r : Reg} {f : Byte → Byte}
    (he : exec i s = instruction i (changeReg r f) s) :
    exec i s = .next (((s.advance i).setRegNZ r (f (s.reg r))).complete (i.baseCycles s.cfg.variant)) := by
  have hop : changeReg r f (s.advance i) = .done {} ((s.advance i).setRegNZ r (f (s.reg r))) := by
    rw [← State.advance_reg s i r]
    rfl
  rw [he, instruction_done hop, cost_base, State.setRegNZ_cfg, State.advance_cfg]

/-- INC and DEC in memory are one read and one write of the effective address, then N and Z, at the base cost (R292,
R293). -/
theorem exec_incDecMem_completes {i : Instr} {s : State} {f : Byte → Byte} {pl : Place}
    (hf : incDecOp i.mnemonic = some f) (ht : i.operand.target? = some (.mem pl)) (hm : s.cfg.mapsInRange) :
    ∃ ea u m v w, effAddr pl (s.advance i) = .done ea u ∧ memRead ea.addr u = .done m v ∧
      memWrite ea.addr (f m) v = .done () w ∧
      exec i s = .next ((w.setFlagsP (setNZ (f m) s.p)).complete (i.baseCycles s.cfg.variant)) := by
  obtain ⟨ea, u, m, v, w, hea, hread, hwrite, hop⟩ := modifyFlagsLast_completes (s := s.advance i) hm pl f setNZ
  have hreads := (effAddr_readsOnly hea).trans (memRead_readsOnly hread)
  have hw := hreads.accesses.trans (memWrite_accesses hwrite)
  have hcfg : w.cfg = s.cfg := hw.cfg
  have hp : w.p = s.p := by rw [hw.same]; rfl
  refine ⟨ea, u, m, v, w, hea, hread, hwrite, ?_⟩
  rw [exec_incDecMem hf ht, instruction_done hop, State.setFlagsP_cfg, hcfg, hp,
    cost_fixed (hasPagePenalty_of_incDec (by rw [hf]; rfl))]

end Machine

/-- Settles O16: the operand read completes in range and leaves A and the flags that the sum is made of. -/
theorem addWithCarryCompletes : Obligations.AddWithCarryCompletes := by
  unfold Obligations.AddWithCarryCompletes
  intro i s src hi hs hm
  obtain ⟨m, u, hread, -⟩ := readSource_completes (s := s.advance i) hm src
  have hx := exec_accumulate_next (addToA_eq_accumulate src ▸ exec_adc hi hs) hread
  rw [addWithCarry_eq, decimalCycle_eq] at hx
  exact ⟨m, u, hread, hx⟩

/-- Settles O17: the operand read completes in range and leaves A and the flags that the difference is made of. -/
theorem subtractWithBorrowCompletes : Obligations.SubtractWithBorrowCompletes := by
  unfold Obligations.SubtractWithBorrowCompletes
  intro i s src hi hs hm
  obtain ⟨m, u, hread, -⟩ := readSource_completes (s := s.advance i) hm src
  have hx := exec_accumulate_next (subFromA_eq_accumulate src ▸ exec_sbc hi hs) hread
  rw [subWithBorrow_eq, decimalCycle_eq] at hx
  exact ⟨m, u, hread, hx⟩

/-- Settles O22: the operand read completes in range and leaves the register compared and the flags not written. -/
theorem comparesComplete : Obligations.ComparesComplete := by
  unfold Obligations.ComparesComplete
  intro i s r src hr hs hm
  obtain ⟨m, u, hread, -⟩ := readSource_completes (s := s.advance i) hm src
  exact ⟨m, u, hread, exec_compare_next hr hs hread⟩

/-- Settles O23: the two accesses complete in range and leave the flags that N and Z are set in; the register forms
are one register change. -/
theorem incrementsComplete : Obligations.IncrementsComplete := by
  unfold Obligations.IncrementsComplete
  exact ⟨fun _ _ _ _ hf ht hm => exec_incDecMem_completes hf ht hm,
    fun _ _ _ hf ht => exec_changeReg_next (exec_incDecA hf ht),
    fun _ _ _ _ h => exec_changeReg_next (exec_indexStep h)⟩

end Sys2Proof
end

section
/-! SUPPORT. Logic, shift and bit instructions read forwards: the state each class leads to, with its cost. -/

namespace Sys2Proof

open Machine

namespace Machine

/-! ### AND, ORA, EOR and BIT -/

/-- A logic instruction is its operand read, then A with N and Z (R320 to R322). -/
theorem exec_logic_next {i : Instr} {s u : State} {f : Byte → Byte → Byte} {src : Source} {m : OperandByte}
    (hf : logicOp i.mnemonic = some f) (hs : i.operand.source? = some src)
    (h : readSource src (s.advance i) = .done m u) :
    exec i s = .next ((u.setRegNZ .a (f s.a m.value)).complete (cost s.cfg.variant i { cross := m.cross })) := by
  have hu := readSource_done h
  have hcfg : u.cfg = s.cfg := hu.cfg
  have ha : u.a = s.a := hu.reg .a
  have hop : logic f src (s.advance i) = .done { cross := m.cross } (u.setRegNZ .a (f s.a m.value)) := by
    rw [logic, h, Access.bind_done, ha]
  rw [exec_logic hf hs, instruction_done hop, State.setRegNZ_cfg, hcfg]

/-- An instruction that is `testA` is its operand read, then the flags from A and the operand byte (R323). -/
theorem exec_testA_next {i : Instr} {s u : State} {f : Byte → Byte → Flags → Flags} {src : Source} {m : OperandByte}
    (he : exec i s = instruction i (testA f src) s) (h : readSource src (s.advance i) = .done m u) :
    exec i s = .next
      ((u.setFlagsP (f s.a m.value s.p)).complete (cost s.cfg.variant i { cross := m.cross })) := by
  have hu := readSource_done h
  have hcfg : u.cfg = s.cfg := hu.cfg
  have hp : u.p = s.p := hu.p
  have ha : u.a = s.a := hu.reg .a
  have hop : testA f src (s.advance i) = .done { cross := m.cross } (u.setFlagsP (f s.a m.value s.p)) := by
    rw [testA, h, Access.bind_done, ha, hp]
  rw [he, instruction_done hop, State.setFlagsP_cfg, hcfg]

/-! ### Shifts and rotates -/

/-- A shift or rotate of A writes A and the flags at the base cost (R324 to R327). -/
theorem exec_shiftA_next {i : Instr} {s : State} {f : Byte → Bool → Byte × Bool} (hf : shiftOp i.mnemonic = some f)
    (ht : i.operand.target? = some .acc) :
    let r := shiftResult f s.a s.p
    exec i s = .next (({ s.advance i with a := r.1, p := r.2 } : State).complete (i.baseCycles s.cfg.variant)) := by
  intro r
  have hop : shiftA (shiftResult f) (s.advance i) = .done {} { s.advance i with a := r.1, p := r.2 } := rfl
  rw [exec_shiftA hf ht, instruction_done hop, cost_base, State.advance_cfg]

/-- Where every address is in range, a read-modify-write whose new byte and flags are `f` of A, the byte read and the
flags is one read and one write of the effective address, the flags written before the write (R95). -/
theorem exec_modifyFlagsFirst_completes {i : Instr} {s : State} {pl : Place} {f : Byte → Byte → Flags → Byte × Flags}
    (he : exec i s = instruction i (modifyFlagsFirst pl fun s m => f s.a m s.p) s) (hm : s.cfg.mapsInRange) :
    ∃ ea u m v w, effAddr pl (s.advance i) = .done ea u ∧ memRead ea.addr u = .done m v ∧
      memWrite ea.addr (f s.a m s.p).1 (v.setFlagsP (f s.a m s.p).2) = .done () w ∧
      exec i s = .next (w.complete (cost s.cfg.variant i { cross := ea.cross })) := by
  obtain ⟨ea, u, m, v, w, hea, hread, hwrite, hop⟩ :=
    modifyFlagsFirst_completes (s := s.advance i) hm pl fun s m => f s.a m s.p
  have hv := (effAddr_readsOnly hea).trans (memRead_readsOnly hread)
  have hp : v.p = s.p := hv.p
  have ha : v.a = s.a := hv.reg .a
  have hcfg : w.cfg = s.cfg := (memWrite_accesses hwrite).cfg.trans hv.cfg
  rw [ha, hp] at hwrite
  exact ⟨ea, u, m, v, w, hea, hread, hwrite, by rw [he, instruction_done hop, hcfg]⟩

/-! ### TSB, TRB, RMBn and SMBn -/

/-- A class of instructions with no member among the rows that take a page penalty takes none (R174). -/
theorem hasPagePenalty_of_class {α : Type} {g : Mnemonic → Option α} {v : Variant} {i : Instr} {x : α}
    (hg : ∀ n ∈ penaltyReaders ++ shiftMnemonics, (g n).isNone) (h : g i.mnemonic = some x) :
    i.hasPagePenalty v = false := by
  have hm : i.mnemonic ∉ penaltyReaders ++ shiftMnemonics := fun hin => by simpa [h] using hg _ hin
  rw [← Bool.not_eq_true, hasPagePenalty_iff]
  exact fun hrow => hm (List.mem_append.2 (hrow.imp And.left fun hshift => hshift.2.1))

/-- A byte with bit `n` cleared or set (R330, R331). -/
def withBit (n : Nat) (b : Bool) (m : Byte) : Byte := if b then m ||| bitMask n else m &&& ~~~bitMask n

/-- RMBn and SMBn are one operation, with the value their bit takes (R330, R331). -/
theorem exec_bitChange {i : Instr} {s : State} {n : Nat} {b : Bool} {z : Byte}
    (h : (resetBit i.mnemonic = some n ∧ b = false) ∨ (setBit i.mnemonic = some n ∧ b = true))
    (ho : i.operand = .mem (.zp z)) : exec i s = instruction i (changeBits (withBit n b) z) s := by
  obtain ⟨hn, rfl⟩ | ⟨hn, rfl⟩ := h
  · exact exec_resetBit hn ho
  · exact exec_setBit hn ho

/-- Where every address is in range, a change of bits is one read and one write of the page-zero byte, at the base
cost, with the flags as they were (R330, R331). -/
theorem exec_changeBits_completes {i : Instr} {s : State} {f : Byte → Byte} {z : Byte}
    (he : exec i s = instruction i (changeBits f z) s) (hm : s.cfg.mapsInRange) :
    ∃ m v w, memRead (zext16 z) (s.advance i) = .done m v ∧ memWrite (zext16 z) (f m) v = .done () w ∧
      exec i s = .next (w.complete (i.baseCycles s.cfg.variant)) := by
  obtain ⟨ea, u, m, v, w, hea, hread, hwrite, hop⟩ :=
    modifyFlagsLast_completes (s := s.advance i) hm (.zp z) f fun _ p => p
  cases hea
  have hcfg : w.cfg = s.cfg := (memWrite_accesses hwrite).cfg.trans (memRead_readsOnly hread).cfg
  refine ⟨m, v, w, hread, hwrite, ?_⟩
  rw [he, instruction_done (op := changeBits f z) hop, State.setFlagsP_cfg, hcfg]
  rfl

end Machine

/-- Settles O24: the operand read completes in range, and leaves A and the flags that N and Z are set in. -/
theorem logicCompletes : Obligations.LogicCompletes := by
  unfold Obligations.LogicCompletes
  intro i s f src hf hs hm
  obtain ⟨m, u, hread, hu⟩ := readSource_completes (s := s.advance i) hm src
  have hp : u.p = s.p := hu.p
  exact ⟨m, u, hread, by rw [exec_logic_next hf hs hread, State.setRegNZ_eq_of_p hp]; rfl⟩

/-- Settles O25: the operand read completes in range and leaves A and the flags tested with; the immediate form reads
nothing and writes Z alone. -/
theorem bitTestCompletes : Obligations.BitTestCompletes := by
  unfold Obligations.BitTestCompletes
  refine ⟨fun i s pl hi ho hm => ?_, fun s v => exec_testA_next (f := testZero) (src := .imm v) rfl rfl⟩
  obtain ⟨m, u, hread, -⟩ := readSource_completes (s := s.advance i) hm (.mem pl)
  exact ⟨m, u, hread, exec_testA_next (exec_bitMem hi (by rw [ho]; rfl)) hread⟩

/-- Settles O26: the accumulator forms are one write of A and the flags; the memory forms' two accesses complete in
range, and the carry rotated in is the one before the instruction. -/
theorem shiftsComplete : Obligations.ShiftsComplete := by
  unfold Obligations.ShiftsComplete
  exact ⟨fun _ _ _ hf ht => exec_shiftA_next hf ht, fun _ _ f _ hf ht hm =>
    exec_modifyFlagsFirst_completes (f := fun _ m p => shiftResult f m p) (exec_shiftMem hf ht) hm⟩

/-- Settles O27: the two accesses complete in range; TSB and TRB take no page penalty, and the page-zero address of
RMBn and SMBn crosses no page. -/
theorem bitChangesComplete : Obligations.BitChangesComplete := by
  unfold Obligations.BitChangesComplete
  refine ⟨fun i s f pl hf hp hm => ?_, fun _ _ _ _ _ h ho hm => exec_changeBits_completes (exec_bitChange h ho) hm⟩
  obtain ⟨ea, u, m, v, w, hea, hread, hwrite, hx⟩ :=
    exec_modifyFlagsFirst_completes (f := fun a m p => (f a m, testZero a m p)) (exec_testAndSet hf hp) hm
  rw [cost_fixed (hasPagePenalty_of_class (g := testAndSetOp) (by decide) hf)] at hx
  exact ⟨ea, u, m, v, w, hea, hread, hwrite, hx⟩

end Sys2Proof
end

section
/-! SUPPORT. Control transfer read forwards: the parts of a two-byte read, push and pull, the state each instruction
leads to with its cost, and the two bytes on the stack of a machine with one bank. -/

namespace Sys2Proof

open Machine

/-! ### The rows of the branches (R141) -/

/-- The conditional branches are two bytes long and cost 2 on every variant (R367). -/
theorem branch_row {i : Instr} {cond : Flags → Bool} {r : Byte} (h : branchCondition i.mnemonic = some cond)
    (ho : i.operand = .rel r) (v : Variant) : i.length = 2 ∧ i.baseCycles v = 2 := by
  rw [baseCycles_eq_summary, ho]
  cases i <;> cases h <;> exact ⟨rfl, rfl⟩

/-- BBRn and BBSn are three bytes long and cost 5 on every variant (R377, R378). -/
theorem bitBranch_row {i : Instr} {n : Nat} {want : Bool} {z r : Byte} (h : bitBranch i.mnemonic = some (n, want))
    (ho : i.operand = .zpr z r) (v : Variant) : i.length = 3 ∧ i.baseCycles v = 5 := by
  rw [baseCycles_eq_summary, ho]
  cases i <;> cases h <;> exact ⟨rfl, rfl⟩

/-- The six flags are all there is of the flags (R33). -/
theorem Flags.eq_of_get {p q : Flags} (h : ∀ f, p.get f = q.get f) : p = q := by
  cases p
  cases q
  simp only [Flags.mk.injEq]
  exact ⟨h .n, h .v, h .d, h .i, h .z, h .c⟩

namespace Machine

/-! ### Two bytes read, pushed and pulled -/

/-- Where every address is in range, a two-byte read is its two data reads, the low byte first (R15). -/
theorem readPair_parts {s : State} (hm : s.cfg.mapsInRange) (a b : Addr) :
    ∃ l u h w, memRead a s = .done l u ∧ memRead b u = .done h w ∧ readPair a b s = .done (word16 h l) w ∧
      w.cfg = s.cfg := by
  obtain ⟨v, w, hpair, hr⟩ := readPair_completes hm a b
  obtain ⟨-, u, hl, hh, rfl⟩ := readPair_done hpair
  exact ⟨_, u, _, w, hl, hh, hpair, hr.cfg⟩

/-- A two-byte push is two pushes, the high byte first (R92). -/
theorem push16_done {v : Addr} {s t : State} {x : Unit} (h : push16 v s = .done x t) :
    ∃ u, push (hi v) s = .done () u ∧ push (lo v) u = .done () t := by
  obtain ⟨_, u, hhi, hlo⟩ := Access.bind_eq_done.1 h
  exact ⟨u, hhi, hlo⟩

/-- A two-byte pull is two pulls, the low byte first (R364, R365). -/
theorem pull16_done {v : Addr} {s t : State} (hd : pull16 s = .done v t) :
    ∃ l u h, pull s = .done l u ∧ pull u = .done h t ∧ v = word16 h l := by
  obtain ⟨l, u, hl, hd⟩ := Access.bind_eq_done.1 hd
  obtain ⟨h, w, hh, hd⟩ := Access.bind_eq_done.1 hd
  cases hd
  exact ⟨l, u, h, hl, hh, rfl⟩

/-! ### Jumps and returns -/

/-- An operation that adds no cycle and keeps the configuration makes an instruction at the base cost. -/
theorem exec_base_next {i : Instr} {op : State → Access Timing} {s u : State} (he : exec i s = instruction i op s)
    (hop : op (s.advance i) = .done {} u) (hc : u.cfg = s.cfg) :
    exec i s = .next (u.complete (i.baseCycles s.cfg.variant)) := by
  rw [he, instruction_done hop, cost_base, hc]

/-- The pointer of an indirect jump: on NMOS its high byte is read in the page of its low byte (R192). -/
theorem indirectTarget_eq (ptr : Addr) (s : State) :
    indirectTarget ptr s =
      readPair ptr (if s.cfg.variant = .nmos6502 then word16 (hi ptr) (lo ptr + 1) else ptr + 1) s := by
  unfold indirectTarget read16
  simp only [← cmos_eq_false_iff]
  cases s.cfg.variant.cmos <;> rfl

/-- A jump whose target is two bytes read goes there, at the base cost (R361, R362). -/
theorem exec_jumpThrough_completes {i : Instr} {op : State → Access Timing} {s : State} {a b : Addr}
    (he : exec i s = instruction i op s)
    (hop : op (s.advance i) = (readPair a b (s.advance i)).bind fun target s => .done {} (s.setPc target))
    (hm : s.cfg.mapsInRange) :
    ∃ l u h w, memRead a (s.advance i) = .done l u ∧ memRead b u = .done h w ∧
      exec i s = .next (({ w with pc := word16 h l } : State).complete (i.baseCycles s.cfg.variant)) := by
  obtain ⟨l, u, h, w, hl, hh, hpair, hcfg⟩ := readPair_parts (s := s.advance i) hm a b
  rw [hpair, Access.bind_done] at hop
  exact ⟨l, u, h, w, hl, hh, exec_base_next he hop hcfg⟩

/-- JSR is a push of the address of its last byte, then its target, at a cost of 6 (R363). -/
theorem exec_jsr_next {s w : State} {a : Addr} (h : push16 (s.pc + 2) (s.advance (.jsr a)) = .done () w) :
    exec (.jsr a) s = .next (({ w with pc := a } : State).complete 6) := by
  have hlast : (s.advance (.jsr a)).pc - 1 = s.pc + 2 := by
    show s.pc + 3#16 - 1#16 = s.pc + 2#16
    bv_omega
  have hop : jumpSubroutine a (s.advance (.jsr a)) = .done {} (w.setPc a) := by
    rw [jumpSubroutine, hlast, h, Access.bind_done]
  rw [exec_base_next rfl hop (push16_operates h).cfg, baseCycles_eq_summary]
  rfl

/-- RTS is a pull of an address, then one past it, at a cost of 6 (R364). -/
theorem exec_rts_next {s w : State} {v : Addr} (h : pull16 (s.advance .rts) = .done v w) :
    exec .rts s = .next (({ w with pc := v + 1 } : State).complete 6) := by
  have hop : returnFromSubroutine (s.advance .rts) = .done {} (w.setPc (v + 1)) := by
    rw [returnFromSubroutine, h, Access.bind_done]
  rw [exec_base_next rfl hop (pull16_operates h).cfg, baseCycles_eq_summary]
  rfl

/-- RTI is a return from an exception at a cost of 6 (R365). -/
theorem exec_rti_next {s w : State} (h : returnFromException (s.advance .rti) = .done () w) :
    exec .rti s = .next (w.complete 6) := by
  have hop : returnFromInterrupt (s.advance .rti) = .done {} w := by
    rw [returnFromInterrupt, h, Access.bind_done]
  rw [exec_base_next rfl hop (returnFromException_operates h).cfg, baseCycles_eq_summary]
  rfl

/-- A return from an exception is a pull of the flags, then of PC (R365). -/
theorem returnFromException_done {s t : State} {x : Unit} (h : returnFromException s = .done x t) :
    ∃ v u a w, pull s = .done v u ∧ pull16 (u.setFlagsP (flagsOfByte v)) = .done a w ∧ t = w.setPc a := by
  obtain ⟨v, u, hv, h⟩ := Access.bind_eq_done.1 h
  obtain ⟨a, w, ha, h⟩ := Access.bind_eq_done.1 h
  cases h
  exact ⟨v, u, a, w, hv, ha, rfl⟩

/-! ### BRK -/

/-- The halt BRK leaves, as one write of the pending halt (R366, R479). -/
theorem flagBreak_eq (s : State) :
    flagBreak s =
      { s with
        pendingHalt :=
          if s.cfg.breakOnBrk = true ∧ s.pendingHalt = none then some { reason := .brk, address := some s.pc }
          else s.pendingHalt } := by
  unfold flagBreak
  simp only [Bool.and_eq_true, Option.isNone_iff_eq_none]
  split <;> rfl

/-- BRK is the exception of its vector, then the halt it leaves, at a cost of 7 (R366). -/
theorem exec_brk_next {s t : State} (h : takeException 0xFFFE (s.pc + 2) true (s.advance .brk) = .done () t) :
    exec .brk s = .next ((flagBreak t).complete 7) := by
  have hret : (s.advance .brk).pc + 1 = s.pc + 2 := by
    show s.pc + 1#16 + 1#16 = s.pc + 2#16
    bv_omega
  have hop : softwareInterrupt (s.advance .brk) = .done {} (flagBreak t) := by
    rw [softwareInterrupt, hret, irqVector, h, Access.bind_done]
  have hcfg : (flagBreak t).cfg = s.cfg := (Operates.flagBreak t).cfg.trans (takeException_operates h).cfg
  rw [exec_base_next rfl hop hcfg, baseCycles_eq_summary]
  rfl

/-! ### Branches -/

/-- A taken branch costs one cycle more across a page (R175). -/
theorem branchCycles_eq (n : Nat) (next target : Addr) :
    branchCycles n next target = if page next = page target then n else n + 1 := by
  rw [branchCycles, bit_eq_ite, crosses]
  by_cases h : page next = page target <;> simp [h]

/-- The cost of a taken branch (R175). -/
theorem cost_taken (v : Variant) (i : Instr) (n : Nat) (next target : Addr) :
    cost v i { branch := branchCycles n next target } =
      if page next = page target then i.baseCycles v + n else i.baseCycles v + n + 1 := by
  have hadd : ∀ k, cost v i { branch := k } = i.baseCycles v + k := fun k => by simp [cost, bit]
  rw [hadd, branchCycles_eq]
  split <;> rfl

/-- An instruction that takes a branch from a state `u` at `next` goes to the target, one cycle more across a page
(R175). -/
theorem exec_taken_next {i : Instr} {op : State → Access Timing} {s u : State} {r : Byte} {next : Addr} {n c : Nat}
    (he : exec i s = instruction i op s)
    (hop : op (s.advance i) = .done { branch := branchCycles n u.pc (branchTarget r u) } (u.setPc (branchTarget r u)))
    (hcfg : u.cfg = s.cfg) (hpc : u.pc = next) (hcost : i.baseCycles s.cfg.variant + n = c) :
    exec i s = .next (({ u with pc := next + r.signExtend 16 } : State).complete
      (if page next = page (next + r.signExtend 16) then c else c + 1)) := by
  subst hpc hcost
  rw [he, instruction_done hop, cost_taken, State.setPc_cfg, ← hcfg]
  rfl

/-- An instruction that ends as a conditional branch from a state `u` at `next` (R367, R377, R378). -/
theorem exec_branchIf_next {i : Instr} {op : State → Access Timing} {s u : State} {cond : Flags → Bool} {r : Byte}
    {next : Addr} {n : Nat} (he : exec i s = instruction i op s) (hop : op (s.advance i) = branchIf cond r u)
    (hcfg : u.cfg = s.cfg) (hpc : u.pc = next) (hbase : i.baseCycles s.cfg.variant = n) :
    exec i s = .next
      (if cond u.p = true then
        ({ u with pc := next + r.signExtend 16 } : State).complete
          (if page next = page (next + r.signExtend 16) then n + 1 else n + 2)
      else u.complete n) := by
  by_cases hcond : cond u.p = true
  · rw [branchIf, if_pos hcond] at hop
    rw [if_pos hcond]
    exact exec_taken_next he hop hcfg hpc (by rw [hbase])
  · rw [branchIf, if_neg hcond] at hop
    rw [if_neg hcond, exec_base_next he hop hcfg, hbase]

/-- BBRn and BBSn are their page-zero read, then a branch on the bit read (R377, R378). -/
theorem branchOnBit_of_memRead {n : Nat} {want : Bool} {z r m : Byte} {s u : State}
    (h : memRead (zext16 z) s = .done m u) :
    branchOnBit n want z r s = branchIf (fun _ => m.getLsbD n == want) r u := by
  rw [branchOnBit, h, Access.bind_done]

/-! ### The stack of a machine with one bank -/

/-- With one bank a logical address is its own physical address. -/
theorem State.byteAt_plain {s : State} (hp : s.cfg.plain) (q : Addr) : s.byteAt q = s.memByte q.toNat := by
  rw [State.byteAt, State.phys_eq, plain_phys hp]

/-- A push changes the logical byte at S alone (R260). -/
theorem push_byteAt {v : Byte} {s t : State} {x : Unit} (h : push v s = .done x t) (hp : s.cfg.plain)
    (hw : Memory.wf s.cfg.initFill s.mem) (q : Addr) :
    t.byteAt q = if q = stackAddr s.sp then v else s.byteAt q := by
  obtain ⟨u, hwrite, rfl⟩ := push_done h
  have hcfg : u.cfg = s.cfg := (memWrite_accesses hwrite).cfg
  have hbyte : ({ u with sp := s.sp - 1 } : State).byteAt q = u.memByte q.toNat := State.byteAt_plain (hcfg ▸ hp) q
  rw [hbyte, memWrite_memByte hwrite hw, State.phys_eq, plain_phys hp, State.byteAt_plain hp]
  simp only [BitVec.toNat_inj]

/-- A pull gives the logical byte one past S, and leaves S there and every byte as it was (R260). -/
theorem pull_stack {v : Byte} {s t : State} (h : pull s = .done v t) (hp : s.cfg.plain) :
    v = s.byteAt (stackAddr (s.sp + 1)) ∧ t.sp = s.sp + 1 ∧ ∀ q, t.byteAt q = s.byteAt q := by
  obtain ⟨rfl, hr⟩ := pull_done h
  have hcfg : t.cfg = s.cfg := hr.cfg
  refine ⟨rfl, by rw [hr], fun q => ?_⟩
  rw [State.byteAt_plain (hcfg ▸ hp), State.byteAt_plain hp]
  exact hr.memByte _

/-- A two-byte push leaves the high byte at S, the low byte below it and every other byte as it was (R92, R260). -/
theorem push16_stack {v : Addr} {s t : State} {x : Unit} (h : push16 v s = .done x t) (hp : s.cfg.plain)
    (hw : Memory.wf s.cfg.initFill s.mem) :
    t.sp = s.sp - 2 ∧ ∀ q, t.byteAt q =
      if q = stackAddr (s.sp - 1) then lo v else if q = stackAddr s.sp then hi v else s.byteAt q := by
  obtain ⟨u, hhi, hlo⟩ := push16_done h
  have hp' : u.cfg.plain := (push_operates hhi).cfg ▸ hp
  refine ⟨?_, fun q => ?_⟩
  · rw [push_sp hlo, push_sp hhi]
    bv_omega
  · rw [push_byteAt hlo hp' (push_wf hhi hw), push_byteAt hhi hp hw, push_sp hhi]

/-- A two-byte pull gives the two bytes past S, the low byte first, and leaves S at the second (R260). -/
theorem pull16_stack {v : Addr} {s t : State} (h : pull16 s = .done v t) (hp : s.cfg.plain) :
    v = word16 (s.byteAt (stackAddr (s.sp + 2))) (s.byteAt (stackAddr (s.sp + 1))) ∧ t.sp = s.sp + 2 := by
  obtain ⟨l, u, g, hl, hg, rfl⟩ := pull16_done h
  have hp' : u.cfg.plain := (pull_operates hl).cfg ▸ hp
  obtain ⟨rfl, hsp, hbytes⟩ := pull_stack hl hp
  obtain ⟨rfl, hsp', -⟩ := pull_stack hg hp'
  have htwo : s.sp + 1 + 1 = s.sp + 2 := by bv_omega
  rw [hbytes, hsp', hsp, htwo]
  exact ⟨rfl, rfl⟩

/-- A two-byte pull from the stack a two-byte push left gives the value pushed, with S as before the push. -/
theorem pull16_of_push16 {s t t' u : State} {v w : Addr} {x : Unit} (hpush : push16 v s = .done x t)
    (hp : s.cfg.plain) (hw : Memory.wf s.cfg.initFill s.mem) (hp' : t'.cfg.plain) (hsp : t'.sp = t.sp)
    (hbytes : ∀ q, t'.byteAt q = t.byteAt q) (hpull : pull16 t' = .done w u) : w = v ∧ u.sp = s.sp := by
  obtain ⟨hsp₁, hbytes₁⟩ := push16_stack hpush hp hw
  obtain ⟨rfl, hsp₂⟩ := pull16_stack hpull hp'
  have hlow : t'.sp + 1 = s.sp - 1 := by rw [hsp, hsp₁]; bv_omega
  have hhigh : t'.sp + 2 = s.sp := by rw [hsp, hsp₁]; bv_omega
  have hne : s.sp ≠ s.sp - 1 := by bv_omega
  rw [hsp₂, hlow, hhigh, hbytes, hbytes, hbytes₁, hbytes₁, if_pos rfl, if_pos rfl, if_neg (mt stackAddr_inj.1 hne),
    word16_hi_lo]
  exact ⟨rfl, rfl⟩

/-- Outside a footprint that holds no flag stand all six. -/
theorem Leaves.flags_eq {fp : Footprint} {s t : State} (h : Leaves fp s t) (hf : ∀ f, fp.flag f = false) :
    t.p = s.p :=
  Flags.eq_of_get fun f => h.flags f (hf f)

end Machine

/-- Settles O28: the two reads of each pointer complete in range, and the target is the two bytes they give. -/
theorem jumpsComplete : Obligations.JumpsComplete := by
  unfold Obligations.JumpsComplete
  refine ⟨fun s a => exec_base_next (op := jump a) rfl rfl rfl, fun s ptr hm => ?_, fun s base hm => ?_⟩
  · exact exec_jumpThrough_completes (op := jumpIndirect ptr) rfl (by rw [jumpIndirect, indirectTarget_eq]; rfl) hm
  · exact exec_jumpThrough_completes (op := jumpIndexedIndirect base) rfl rfl hm

/-- Settles O29: the two pushes and the two pulls complete in range. -/
theorem subroutineInstructionsComplete : Obligations.SubroutineInstructionsComplete := by
  unfold Obligations.SubroutineInstructionsComplete
  refine ⟨fun s a hm => ?_, fun s hm => ?_⟩
  · obtain ⟨w, hpush, -⟩ := push16_completes (s := s.advance (.jsr a)) hm (s.pc + 2)
    obtain ⟨u, hhi, hlo⟩ := push16_done hpush
    exact ⟨u, w, hhi, hlo, exec_jsr_next hpush⟩
  · obtain ⟨v, w, hpull, -⟩ := pull16_completes (s := s.advance .rts) hm
    obtain ⟨l, u, h, hl, hh, rfl⟩ := pull16_done hpull
    exact ⟨l, u, h, w, hl, hh, exec_rts_next hpull⟩

/-- Settles O30: the three pulls complete in range. -/
theorem returnFromInterruptCompletes : Obligations.ReturnFromInterruptCompletes := by
  unfold Obligations.ReturnFromInterruptCompletes
  intro s hm
  obtain ⟨t, hret, -⟩ := returnFromException_completes (s := s.advance .rti) hm
  obtain ⟨v, u, a, x, hv, ha, rfl⟩ := returnFromException_done hret
  obtain ⟨l, w, h, hl, hh, rfl⟩ := pull16_done ha
  exact ⟨v, u, l, w, h, x, hv, hl, hh, exec_rti_next hret⟩

/-- Settles O31: the exception is taken in range, and the halt is one write beside it. -/
theorem breakCompletes : Obligations.BreakCompletes := by
  unfold Obligations.BreakCompletes
  intro s hm
  obtain ⟨t, ht, hcfg⟩ := takeException_completes (s := s.advance .brk) hm 0xFFFE (s.pc + 2) true
  rw [State.advance_cfg] at hcfg
  refine ⟨t, ht, ?_⟩
  rw [exec_brk_next ht, flagBreak_eq, ← hcfg]

/-- Settles O32: the branch begins from the state that has moved on by its two bytes. -/
theorem branchesComplete : Obligations.BranchesComplete := by
  unfold Obligations.BranchesComplete
  intro i s cond r h ho next target
  obtain ⟨hlen, hbase⟩ := branch_row h ho s.cfg.variant
  have hs : s.advance i = { s with pc := next } := by rw [State.advance, hlen]; rfl
  exact exec_branchIf_next (u := { s with pc := next }) (exec_branch h ho) (by rw [hs]) rfl rfl hbase

/-- Settles O33: BRA is always taken; the bit branches begin from the state their page-zero read leaves. -/
theorem otherBranchesComplete : Obligations.OtherBranchesComplete := by
  unfold Obligations.OtherBranchesComplete
  refine ⟨fun s r => ?_, fun i s n want z r h ho hm => ?_⟩
  · have hbase : (Instr.bra r).baseCycles s.cfg.variant + 0 = 3 := baseCycles_eq_summary _ _
    exact exec_taken_next (op := branchAlways r) (u := s.advance (.bra r)) rfl rfl rfl rfl hbase
  · obtain ⟨hlen, hbase⟩ := bitBranch_row h ho s.cfg.variant
    obtain ⟨u, hread, hu⟩ := memRead_completes (s := s.advance i) hm (zext16 z)
    have hpc : u.pc = s.pc + 3 := by rw [hu, State.advance_pc, hlen]; rfl
    have hx := exec_branchIf_next (exec_bitBranch h ho) (branchOnBit_of_memRead hread) hu.cfg hpc hbase
    simp only [beq_iff_eq] at hx
    exact ⟨_, u, hread, hx⟩

/-- Settles O36: the two bytes RTS pulls are the two JSR pushed, and neither writes a register but S, or a flag. -/
theorem subroutineReturns : Obligations.SubroutineReturns := by
  unfold Obligations.SubroutineReturns
  intro s a hp hw
  obtain ⟨w, hpush, hcfg⟩ := push16_completes (s := s.advance (.jsr a)) (plain_mapsInRange hp) (s.pc + 2)
  let t := ({ w with pc := a } : State).complete 6
  have hpt : t.cfg.plain := hcfg ▸ hp
  obtain ⟨v, x, hpull, -⟩ := pull16_completes (s := t.advance .rts) (plain_mapsInRange hpt)
  obtain ⟨rfl, hsp⟩ := pull16_of_push16 (t' := t.advance .rts) hpush hp hw hpt rfl (fun _ => rfl) hpull
  have ht : Leaves .stack s t :=
    ((Leaves.setPc s _).trans ((push16_leaves rfl rfl _ _).of_done hpush)).trans (.of_control rfl)
  have hx : Leaves .stack s x := (ht.trans (.setPc t _)).trans ((pull16_leaves rfl _).of_done hpull)
  have hpc : s.pc + 2 + 1 = s.pc + 3 := by bv_omega
  exact ⟨t, _, exec_jsr_next hpush, rfl, (push16_stack hpush hp hw).1, exec_rts_next hpull, hpc, hsp,
    hx.regs .a rfl, hx.regs .x rfl, hx.regs .y rfl, hx.flags_eq fun _ => rfl⟩

end Sys2Proof
end

section
/-! SUPPORT. The flag instructions and the wait read forwards: the rows of the flag instructions, and what a waiting
engine does at a boundary while nothing wakes it and once something does. -/

namespace Sys2Proof

open Machine

/-- The flag instructions are one byte long and cost 2 on every variant (R400 to R406). -/
theorem flag_row {i : Instr} {f : Flags → Flags} (h : flagOp i.mnemonic = some f) (v : Variant) :
    i.length = 1 ∧ i.baseCycles v = 2 := by
  rw [baseCycles_eq_summary]
  cases i <;> cases h <;> exact ⟨rfl, rfl⟩

/-- An open boundary stays open when the engine no longer waits. -/
theorem BoundaryOpen.wake {s : State} (h : BoundaryOpen s) : BoundaryOpen s.wake :=
  ⟨h.noCommand, h.inTick, h.noFault, h.notStopped, h.noPendingHalt, h.noPauseRequest, h.budgetLeft⟩

namespace Machine

/-- A flag instruction writes the flags alone, at a cost of 2 (R400 to R406). -/
theorem exec_flag_next {i : Instr} {f : Flags → Flags} (h : flagOp i.mnemonic = some f) (s : State) :
    exec i s = .next (({ s with pc := s.pc + 1, p := f s.p } : State).complete 2) := by
  obtain ⟨hlen, hbase⟩ := flag_row h s.cfg.variant
  rw [exec_base_next (exec_flag h) rfl rfl, hbase, State.advance, hlen]
  rfl

/-- With quiet lines and no pause request, opening a boundary and sampling its lines publishes the channel and uses up
the boundary's entry alone, whether or not the engine waits: `waiting` is carried along. -/
theorem samplePins_openBoundary {s : State} (hn : (s.nmiLatch || s.pinsNow.nmiEdge) = false)
    (hi : s.pinsNow.irqLine = false) (hr : s.pauseReq = false) : s.openBoundary.samplePins = s.atFetch := by
  have hu : Uninterrupted s.wake := ⟨rfl, hn, Bool.and_eq_false_iff.2 (.inl hi)⟩
  exact congrArg (fun t : State => { t with waiting := s.waiting }) (wake_samplePins_openBoundary hu hr)

/-- While neither line wakes it, a waiting engine charges one cycle and does nothing else (R411). -/
theorem serviceBoundary_of_waiting {e irq : Bool} {s : State} (hw : s.waiting = true)
    (hl : (s.nmiLatch || irq) = false) :
    serviceBoundary e irq s = .next { s with tickCycles := s.tickCycles + 1 } := by
  unfold serviceBoundary
  rw [hw, hl]
  rfl

/-- Once a line wakes it, masked or not, the engine goes on as the machine that does not wait (R411): only the wait
check reads `waiting`. -/
theorem serviceBoundary_of_woken {e irq : Bool} {s : State} (hl : (s.nmiLatch || irq) = true) :
    serviceBoundary e irq s = serviceBoundary e irq s.wake := by
  have hcheck : (s.waiting && !(s.nmiLatch || irq)) = false := by simp [hl]
  have hcheck' : (s.wake.waiting && !(s.wake.nmiLatch || irq)) = false := rfl
  unfold serviceBoundary
  rw [hcheck, hcheck']
  rfl

/-- An asserted IRQ line ends the wait (R411): the step is that of the machine that does not wait. -/
theorem step_of_irqLine {s : State} (h : BoundaryOpen s) (hi : s.pinsNow.irqLine = true) : step s = step s.wake := by
  have hl : (s.openBoundary.samplePins.nmiLatch || s.openBoundary.pinsNow.irqLine) = true :=
    Bool.or_eq_true_iff.2 (.inr hi)
  rw [step_of_boundaryOpen h, step_of_boundaryOpen h.wake]
  exact serviceBoundary_of_woken hl

end Machine

/-- Settles O42: with quiet lines the wait check is the one that applies; an asserted IRQ line, masked or not, fails it,
and no later check reads `waiting`. -/
theorem waitForInterrupt : Obligations.WaitForInterrupt := by
  unfold Obligations.WaitForInterrupt
  intro s h hw hn
  refine ⟨fun hi => ?_, fun hi _ => step_of_irqLine h hi⟩
  have hl : (s.openBoundary.samplePins.nmiLatch || s.openBoundary.pinsNow.irqLine) = false :=
    Bool.or_eq_false_iff.2 ⟨hn, hi⟩
  rw [step_of_boundaryOpen h, ← samplePins_openBoundary hn hi h.noPauseRequest]
  exact serviceBoundary_of_waiting hw hl

/-- Settles O34: the flag instructions write the flags alone; NOP, WAI and STP are each their operation at the base
cost of their row. -/
theorem flagAndSystemInstructionsComplete : Obligations.FlagAndSystemInstructionsComplete := by
  unfold Obligations.FlagAndSystemInstructionsComplete
  refine ⟨fun i s f h => exec_flag_next h s, fun s => ⟨?_, ?_, ?_⟩⟩
  · have hbase : Instr.nop.baseCycles s.cfg.variant = 2 := baseCycles_eq_summary _ _
    rw [exec_base_next (op := registerOnly fun s => s) rfl rfl rfl, hbase]
    rfl
  · have hbase : Instr.wai.baseCycles s.cfg.variant = 3 := baseCycles_eq_summary _ _
    rw [exec_wai, hbase]
    rfl
  · have hbase : Instr.stp.baseCycles s.cfg.variant = 3 := baseCycles_eq_summary _ _
    rw [exec_stp, hbase]
    rfl

end Sys2Proof
end

section
/-! SUPPORT. Taking an exception and returning from one on a machine with one bank: the parts of the sequence, the three
bytes it leaves on the stack, the flags and PC after it; then the interrupt entries of an open boundary. -/

namespace Sys2Proof

open Machine

namespace Machine

/-! ### The parts of the exception sequence -/

/-- The flags an exception goes on with: I set, D cleared on CMOS alone (R433, D39). -/
def exceptionFlags (v : Variant) (p : Flags) : Flags := { p with i := true, d := if v = .nmos6502 then p.d else false }

/-- An exception pushes the return address and the status byte, writes I and D, and reads its vector (R433, R366). -/
theorem takeException_done {vec ret : Addr} {b : Bool} {s t : State} {x : Unit}
    (h : takeException vec ret b s = .done x t) :
    ∃ u v w target, push16 ret s = .done () u ∧ push (pbyte u.p b) u = .done () v ∧
      read16 vec (v.setFlagsP (exceptionFlags v.cfg.variant v.p)) = .done target w ∧ t = w.setPc target := by
  obtain ⟨_, u, hret, h⟩ := Access.bind_eq_done.1 h
  obtain ⟨_, v, hp, h⟩ := Access.bind_eq_done.1 h
  obtain ⟨target, w, hvec, h⟩ := Access.bind_eq_done.1 h
  cases h
  refine ⟨u, v, w, target, hret, hp, ?_, rfl⟩
  rw [← hvec]
  unfold exceptionFlags
  cases v.cfg.variant <;> rfl

/-- On a machine without soft switches a two-byte read gives the word there, and writes no register or memory. -/
theorem read16_noSwitch {s t : State} {a w : Addr} (hm : s.cfg.mapsInRange) (hs : s.cfg.switchDecode = [])
    (h : read16 a s = .done w t) : w = s.wordAt a ∧ ReadsOnly s t := by
  obtain ⟨ph, hread⟩ := readPair_noSwitch hm hs a (a + 1)
  cases h.symm.trans hread
  exact ⟨rfl, rfl⟩

/-- The data reads of a machine with one bank leave every logical byte. -/
theorem ReadsOnly.byteAt_plain {s t : State} (h : ReadsOnly s t) (hp : s.cfg.plain) (q : Addr) :
    t.byteAt q = s.byteAt q := by
  rw [State.byteAt_plain (h.cfg ▸ hp), State.byteAt_plain hp, h.memByte]

/-! ### What it leaves on a machine with one bank -/

section Plain

variable {vec ret : Addr} {b : Bool} {s t : State} {x : Unit} (h : takeException vec ret b s = .done x t)
include h

/-- Outside the footprint of the stack, an exception changes the flags and PC alone (R433). -/
theorem takeException_registers :
    t.a = s.a ∧ t.x = s.x ∧ t.y = s.y ∧ t.p = exceptionFlags s.cfg.variant s.p := by
  obtain ⟨u, v, w, target, hret, hp, hvec, rfl⟩ := takeException_done h
  have hv : Leaves .stack s v :=
    ((push16_leaves rfl rfl _ _).of_done hret).trans ((push_leaves rfl rfl _ _).of_done hp)
  have hw := (readPair_done hvec).1
  refine ⟨(hw.reg .a).trans (hv.regs .a rfl), (hw.reg .x).trans (hv.regs .x rfl),
    (hw.reg .y).trans (hv.regs .y rfl), ?_⟩
  rw [State.setPc_p, hw.p, State.setFlagsP_p, hv.flags_eq fun _ => rfl, hv.cfg]

variable (hp : s.cfg.plain) (hw : Memory.wf s.cfg.initFill s.mem)
include hp hw

/-- An exception leaves the return address and the status byte on the stack, with S three less, and every other byte as it
was (R433, R366). -/
theorem takeException_stack :
    t.sp = s.sp - 3 ∧ ∀ q, t.byteAt q =
      if q = stackAddr (s.sp - 2) then pbyte s.p b else if q = stackAddr (s.sp - 1) then lo ret
      else if q = stackAddr s.sp then hi ret else s.byteAt q := by
  obtain ⟨u, v, w, target, hret, hpush, hvec, rfl⟩ := takeException_done h
  have hu : Leaves .stack s u := (push16_leaves rfl rfl _ _).of_done hret
  have hpu : u.cfg.plain := hu.cfg ▸ hp
  have hwu : Memory.wf u.cfg.initFill u.mem := hu.cfg ▸ (push16_operates hret).wf hw
  have hpv : v.cfg.plain := (push_operates hpush).cfg ▸ hpu
  have hread := (readPair_done hvec).1
  obtain ⟨hsp, hbytes⟩ := push16_stack hret hp hw
  refine ⟨?_, fun q => ?_⟩
  · have hwsp : w.sp = v.sp := hread.reg .sp
    rw [State.setPc_sp, hwsp, push_sp hpush, hsp]
    bv_omega
  · calc (w.setPc target).byteAt q = w.byteAt q := rfl
      _ = v.byteAt q := hread.byteAt_plain hpv q
      _ = _ := by rw [push_byteAt hpush hpu hwu, hsp, hu.flags_eq fun _ => rfl, hbytes]

omit hw in
/-- PC is the word at the vector, which the exception's reads leave as it is (R432). -/
theorem takeException_pc : t.pc = t.wordAt vec := by
  obtain ⟨u, v, w, target, hret, hpush, hvec, rfl⟩ := takeException_done h
  have hcfg : v.cfg = s.cfg := (push_operates hpush).cfg.trans (push16_operates hret).cfg
  have hpv : v.cfg.plain := hcfg ▸ hp
  obtain ⟨rfl, hread⟩ := read16_noSwitch (s := v.setFlagsP (exceptionFlags v.cfg.variant v.p))
    (plain_mapsInRange hpv) hpv.2.2.1 hvec
  exact congrArg₂ word16 (hread.byteAt_plain hpv _).symm (hread.byteAt_plain hpv _).symm

/-- A byte past the stack page is as before. -/
theorem takeException_byteAt_of_le {q : Addr} (hq : 512 ≤ q.toNat) : t.byteAt q = s.byteAt q := by
  have hne : ∀ sp, q ≠ stackAddr sp := by
    rintro sp rfl
    have := sp.isLt
    rw [stackAddr_toNat] at hq
    omega
  rw [(takeException_stack h hp hw).2, if_neg (hne _), if_neg (hne _), if_neg (hne _)]

/-- Every logical byte but the three pushed is as before, and PC is the word that stood at the vector (R432, R433). -/
theorem takeException_vector (hvec : vec = 0xFFFA ∨ vec = 0xFFFE) : t.pc = s.wordAt vec := by
  have hlow : 512 ≤ vec.toNat ∧ 512 ≤ (vec + 1).toNat := by rcases hvec with rfl | rfl <;> decide
  rw [takeException_pc h hp, State.wordAt, takeException_byteAt_of_le h hp hw hlow.1,
    takeException_byteAt_of_le h hp hw hlow.2]
  rfl

end Plain

/-- Three stack bytes in a row stand at three addresses. -/
theorem stackAddr_distinct (sp : Byte) :
    stackAddr sp ≠ stackAddr (sp - 1) ∧ stackAddr sp ≠ stackAddr (sp - 2) ∧
      stackAddr (sp - 1) ≠ stackAddr (sp - 2) := by
  simp only [ne_eq, stackAddr_inj]
  refine ⟨?_, ?_, ?_⟩ <;> bv_omega

/-- A return from an exception pulls the flags, then PC, and leaves A, X and Y (R365, R434). -/
theorem returnFromException_stack {s t : State} {x : Unit} (h : returnFromException s = .done x t) (hp : s.cfg.plain) :
    t.p = flagsOfByte (s.byteAt (stackAddr (s.sp + 1))) ∧
      t.pc = word16 (s.byteAt (stackAddr (s.sp + 3))) (s.byteAt (stackAddr (s.sp + 2))) ∧ t.sp = s.sp + 3 ∧
      t.a = s.a ∧ t.x = s.x ∧ t.y = s.y := by
  obtain ⟨v, u, target, w, hpull, hpull16, rfl⟩ := returnFromException_done h
  have hu : Leaves .stack s u := (pull_leaves rfl _).of_done hpull
  have hw : Leaves .stack (u.setFlagsP (flagsOfByte v)) w := (pull16_leaves rfl _).of_done hpull16
  obtain ⟨rfl, husp, hbytes⟩ := pull_stack hpull hp
  obtain ⟨rfl, hwsp⟩ := pull16_stack hpull16 (hu.cfg ▸ hp)
  have hbytes' : ∀ f q, (u.setFlagsP f).byteAt q = s.byteAt q := fun _ q => hbytes q
  have htwo : s.sp + 1 + 1 = s.sp + 2 := by bv_omega
  have hthree : s.sp + 1 + 2 = s.sp + 3 := by bv_omega
  rw [State.setFlagsP_sp, husp, hthree] at hwsp
  refine ⟨hw.flags_eq fun _ => rfl, ?_, hwsp, (hw.regs .a rfl).trans (hu.regs .a rfl),
    (hw.regs .x rfl).trans (hu.regs .x rfl), (hw.regs .y rfl).trans (hu.regs .y rfl)⟩
  rw [State.setPc_pc, State.setFlagsP_sp, husp, htwo, hthree, hbytes', hbytes']

/-! ### The interrupt entries of an open boundary -/

/-- An interrupt entry is the exception with B = 0 from a state that no longer waits, at a cost of 7 (R433). -/
theorem serviceInterrupt_of_takeException {vec : Addr} {s t : State} (hs : s.waiting = false)
    (h : takeException vec s.pc false s = .done () t) : serviceInterrupt vec s = .next (t.complete 7) := by
  have ht : { t with waiting := false } = t := by rw [(takeException_operates h).same, hs]
  unfold serviceInterrupt enterInterrupt
  rw [h, Access.bind_done, Access.bind_done, ht]
  rfl

/-- A latched NMI is entered, whatever I is (R430, R435). -/
theorem serviceBoundary_of_nmi {e irq : Bool} {s : State} (hn : s.nmiLatch = true) :
    serviceBoundary e irq s = serviceInterrupt nmiVector { s.wake with nmiLatch := false } := by
  unfold serviceBoundary
  simp only [hn, Bool.true_or, Bool.not_true, Bool.and_false, Bool.false_eq_true, if_false, if_true]

/-- With no NMI, an asserted IRQ is entered where I is clear (R431, R435). -/
theorem serviceBoundary_of_irq {e : Bool} {s : State} (hn : s.nmiLatch = false) (hi : s.p.i = false) :
    serviceBoundary e true s = serviceInterrupt irqVector s.wake := by
  unfold serviceBoundary
  simp only [hn, hi, Bool.or_true, Bool.not_true, Bool.not_false, Bool.and_false, Bool.and_true, Bool.false_eq_true,
    if_false, if_true]

/-- Where no pause is requested, a woken boundary publishes the channel, uses up its lines and latches an NMI edge. -/
theorem wake_samplePins_eq {s : State} (hr : s.pauseReq = false) :
    s.openBoundary.samplePins.wake =
      { s.atFetch with waiting := false, nmiLatch := s.nmiLatch || s.pinsNow.nmiEdge } := by
  unfold State.atFetch State.wake State.samplePins State.openBoundary
  rw [← hr]
  rfl

end Machine

/-- Settles O37: the three bytes pushed, the flags and PC of the sequence, and nothing else on a machine with one bank. -/
theorem exceptionEntry : Obligations.ExceptionEntry := by
  unfold Obligations.ExceptionEntry
  intro s vector ret b hp hw hvec
  obtain ⟨t, ht, -⟩ := takeException_completes (plain_mapsInRange hp) vector ret b
  obtain ⟨ha, hx, hy, hflags⟩ := takeException_registers ht
  obtain ⟨hsp, hbytes⟩ := takeException_stack ht hp hw
  obtain ⟨h01, h02, h12⟩ := stackAddr_distinct s.sp
  refine ⟨t, ht, takeException_vector ht hp hw hvec, hsp, ha, hx, hy, hflags, ?_, ?_, ?_, fun q h0 h1 h2 => ?_⟩
  · exact (hbytes (stackAddr s.sp)).trans ((if_neg h02).trans ((if_neg h01).trans (if_pos rfl)))
  · exact (hbytes (stackAddr (s.sp - 1))).trans ((if_neg h12).trans (if_pos rfl))
  · exact (hbytes (stackAddr (s.sp - 2))).trans (if_pos rfl)
  · exact (hbytes q).trans ((if_neg h2).trans ((if_neg h1).trans (if_neg h0)))

/-- Settles O38: the return pulls the three bytes the exception pushed. -/
theorem exceptionReturns : Obligations.ExceptionReturns := by
  unfold Obligations.ExceptionReturns
  intro s vector ret b hp hw
  obtain ⟨t, ht, hcfg⟩ := takeException_completes (plain_mapsInRange hp) vector ret b
  have hpt : t.cfg.plain := hcfg ▸ hp
  obtain ⟨u, hu, -⟩ := returnFromException_completes (plain_mapsInRange hpt)
  obtain ⟨ha, hx, hy, -⟩ := takeException_registers ht
  obtain ⟨hsp, hbytes⟩ := takeException_stack ht hp hw
  obtain ⟨hp', hpc, hsp', ha', hx', hy'⟩ := returnFromException_stack hu hpt
  obtain ⟨h01, h02, h12⟩ := stackAddr_distinct s.sp
  have h1 : t.sp + 1 = s.sp - 2 := by rw [hsp]; bv_omega
  have h2 : t.sp + 2 = s.sp - 1 := by rw [hsp]; bv_omega
  have h3 : t.sp + 3 = s.sp := by rw [hsp]; bv_omega
  refine ⟨t, u, ht, hu, ?_, ?_, hsp'.trans h3, ha'.trans ha, hx'.trans hx, hy'.trans hy⟩
  · rw [hpc, h2, h3, hbytes, hbytes, if_neg h02, if_neg h01, if_pos rfl, if_neg h12, if_pos rfl, word16_hi_lo]
  · rw [hp', h1, hbytes, if_pos rfl, flagsOfByte_pbyte]

/-- Settles O41: the NMI check comes before the IRQ check, and each entry is the exception of its vector. -/
theorem interruptsTaken : Obligations.InterruptsTaken := by
  unfold Obligations.InterruptsTaken
  intro s hb hm
  have hwake := wake_samplePins_eq hb.noPauseRequest
  rw [step_of_boundaryOpen hb, oneStep]
  refine ⟨fun hn => ?_, fun hn hirq hi => ?_⟩
  · obtain ⟨t, ht, -⟩ := takeException_completes
      (s := { s.atFetch with nmiLatch := false, waiting := false }) hm 0xFFFA s.pc false
    rw [serviceBoundary_of_nmi hn, hwake]
    exact ⟨t, ht, serviceInterrupt_of_takeException rfl ht⟩
  · obtain ⟨t, ht, -⟩ := takeException_completes (s := { s.atFetch with waiting := false }) hm 0xFFFE s.pc false
    have hlatch : (s.nmiLatch || s.pinsNow.nmiEdge) = s.nmiLatch := hn.trans (Bool.or_eq_false_iff.1 hn).1.symm
    have hline : s.openBoundary.pinsNow.irqLine = true := hirq
    rw [hline, serviceBoundary_of_irq (s := s.openBoundary.samplePins) hn hi, hwake, hlatch]
    exact ⟨t, ht, serviceInterrupt_of_takeException rfl ht⟩

end Sys2Proof
end

section
/-! SUPPORT. The instruction at PC by what its opcode is, a PC breakpoint before it, and a command of the host carried out;
then the step command, which closes one instruction whatever it comes to. -/

namespace Sys2Proof

open Machine

namespace Machine

/-! ### An invalid opcode, and a PC breakpoint -/

/-- An invalid opcode at PC comes to the policy, with no operand byte fetched (R170, R441). -/
theorem runInstr_of_invalid {s u : State} {op : Byte} (hf : fetch s.pc s = .done op u)
    (hl : opcodeLength s.cfg.variant op = none) : runInstr s = .next (invalidOpcode u) := by
  have hi : fetchInstr s = .done (.error (.invalidOpcode op)) u := by
    unfold fetchInstr
    rw [hf, Access.bind_done]
    simp only [hl]
  unfold runInstr
  rw [hi]

theorem invalidOpcode_strict {s : State} (h : s.cfg.invalidPolicy = .strict) :
    invalidOpcode s =
      { s with
        ctrl := .halted .illegalOpcode, inTick := false
        events := s.events ++ [.halted (.halt .illegalOpcode) s.pc] } := by
  unfold invalidOpcode
  rw [h]
  rfl

theorem invalidOpcode_lenient {s : State} (h : s.cfg.invalidPolicy = .lenient) :
    invalidOpcode s = { s with pc := s.pc + 1, tickCycles := s.tickCycles + 1 } := by
  unfold invalidOpcode
  rw [h]

/-- A flag hits where the dense entry has it and, where the bank must match, the sparse one does (R476, R477). -/
theorem flagHit_iff {s : State} {flag : Byte} {k : AccessKind} {a : Addr} :
    flagHit s flag k a = true ↔
      s.dense a.toNat &&& flag ≠ 0 ∧ (s.cfg.bpBankExact = false ∨ s.sparse (s.phys k a) &&& flag ≠ 0) := by
  simp [flagHit]

/-- With no wait, no NMI and no IRQ let through, a PC breakpoint pauses the engine before the fetch (R477). -/
theorem serviceBoundary_of_breakpoint {irq : Bool} {s : State} (hw : s.waiting = false) (hn : s.nmiLatch = false)
    (hi : (irq && !s.p.i) = false) (hb : pcBreakpointHit s.wake = true) :
    serviceBoundary true irq s = .next (pauseAtBreakpoint s.wake) := by
  unfold serviceBoundary
  rw [hw, hn, hi, hb]
  rfl

/-! ### A command of the host -/

/-- A command that need not wait for the end of a tick is carried out at once (R485). -/
theorem step_of_command {s : State} {c : Command} {rest : List Arrival} (h : s.commands = .now c :: rest)
    (hc : betweenTicks c = false) : step s = perform c { s with commands := rest } := by
  unfold step hostedStep
  rw [h]
  simp only [hc, Bool.and_false, Bool.false_eq_true, if_false]

/-! ### The step command -/

/-- The `one_step` of a step command at an uninterrupted boundary is the instruction at PC, whatever PC breakpoint is set
there (R490). -/
theorem oneStep_of_uninterrupted {s : State} (h : Uninterrupted s) :
    oneStep false s = runInstr { s with pins := s.pins.tail } := by
  have hlatch : (s.nmiLatch || s.pinsNow.nmiEdge) = s.nmiLatch :=
    h.noNmi.trans (Bool.or_eq_false_iff.1 h.noNmi).1.symm
  have hs : s.samplePins.wake = { s with pins := s.pins.tail } := by
    unfold State.wake State.samplePins
    rw [hlatch, ← h.notWaiting]
  rw [oneStep, serviceBoundary_of_quiet (s := s.samplePins) h.notWaiting h.noNmi h.noIrq rfl, hs]

/-- The reason a step pauses with: of a halt flagged during it, or of the step itself (R490). -/
def State.stepReason (s : State) : PauseReason :=
  match s.pendingHalt with
  | some h => h.reason
  | none => .step

/-- A step that is not Halted pauses with its reason and reports both events (R490). -/
theorem closeStep_paused {s : State} {r : Option PauseReason} (h : s.ctrl = .paused r) :
    closeStep s =
      { s.publish with
        pendingHalt := none, ctrl := .paused (some s.stepReason)
        events := s.events ++ [.halted (.pause s.stepReason) s.pc, .tickCompleted s.tickCycles] } := by
  unfold closeStep State.emit State.stepReason
  simp only [h]
  cases hp : s.pendingHalt <;> simp [State.publish, hp]

/-- A step that is Halted, with its own event the last one, reports the end of its tick after it (R490). -/
theorem closeStep_reported {s : State} {r : HaltReason} {before : List Event} {e : Event} {n : Nat}
    (hr : s.ctrl = .halted r) (he : s.events = before ++ [e]) (hn : s.tickCycles = n) :
    closeStep s = { s.publish with events := before ++ [e, .tickCompleted n] } := by
  rw [closeStep_halted hr, State.emit, State.publish_events, he, hn, List.append_assoc]
  rfl

/-- Only STP changes `CTRL` and emits an event (R412). -/
theorem exec_keeps_ctrl {i : Instr} {s t : State} (hi : i ≠ .stp) (h : exec i s = .next t) :
    t.ctrl = s.ctrl ∧ t.events = s.events := by
  obtain ⟨-, -, -, -, -, -, -, -, -, -, -, -, -, -, hstp, -⟩ := machineFrame i s t h
  exact (hstp hi).2

/-- The step command in Paused, where its instruction is fetched, is the instruction, closed (R490). -/
theorem step_of_stepCommand {s u : State} {i : Instr} {rest : List Arrival} {reason : Option PauseReason}
    (hc : s.commands = .now .step :: rest) (hp : s.ctrl = .paused reason) (hu : Uninterrupted s)
    (hw : i.wf s.cfg.variant = true)
    (hf : fetchBytes s.pc i.length { s with commands := rest, tickCycles := 0, pins := s.pins.tail } =
      .done (encode i) u) : step s = closeOutcome (exec i u) := by
  have hu' : Uninterrupted { s with commands := rest, tickCycles := 0 } := ⟨hu.notWaiting, hu.noNmi, hu.noIrq⟩
  have hfetch : fetchInstr { s with commands := rest, tickCycles := 0, pins := s.pins.tail } = .done (.ok i) u :=
    fetchInstr_of_encode hw hf
  rw [step_of_command hc rfl, perform, hostStep_paused (s := { s with commands := rest }) hp, oneStep_of_uninterrupted hu', runInstr, hfetch]

end Machine

/-- Settles O43: the policy answers from the state the opcode fetch left, which differs in the switches alone. -/
theorem invalidOpcodePolicies : Obligations.InvalidOpcodePolicies := by
  unfold Obligations.InvalidOpcodePolicies
  intro s u op hr hf hl
  have hu := (busRead_done hf).2
  have hcfg : u.cfg = s.cfg := by rw [hu]; rfl
  have hev : u.events = s.events := by rw [hu]; rfl
  have hpc : u.pc = s.pc := by rw [hu]; rfl
  have htick : u.tickCycles = s.tickCycles := by rw [hu]; rfl
  rw [step_of_ready hr, runInstr_of_invalid (s := s.atFetch) hf hl, ← hcfg, ← hev, ← hpc, ← htick]
  exact ⟨fun h => by rw [invalidOpcode_strict h], fun h => by rw [invalidOpcode_lenient h]⟩

/-- Settles O44: where the engine would go on to the instruction, the breakpoint check comes first. -/
theorem pcBreakpointPauses : Obligations.PcBreakpointPauses := by
  unfold Obligations.PcBreakpointPauses
  intro s hb hu hskip hdense hbank
  have hwake := wake_samplePins_openBoundary hu hb.noPauseRequest
  have hhit : pcBreakpointHit s.atFetch = true := flagHit_iff.2 ⟨hdense, hbank⟩
  rw [step_of_boundaryOpen hb, hskip, oneStep]
  rw [← hwake] at hhit ⊢
  exact serviceBoundary_of_breakpoint hu.notWaiting hu.noNmi hu.noIrq hhit

/-- Settles O45: the step command is the instruction from the fetched state, closed by what it came to. -/
theorem stepCommandRunsOne : Obligations.StepCommandRunsOne := by
  unfold Obligations.StepCommandRunsOne
  intro s u i rest reason hc hp hint hw hf
  have hu := (fetchBytes_done hf).1
  have hctrl : u.ctrl = .paused reason := by rw [hu]; exact hp
  have hev : u.events = s.events := by rw [hu]
  have hpc : u.pc = s.pc := by rw [hu]
  have htick : u.tickCycles = 0 := by rw [hu]
  rw [step_of_stepCommand hc hp hint hw hf]
  refine ⟨fun t ht hi => ?_, fun t ht hi => ?_, fun p h hx => ?_⟩
  · obtain ⟨hctrl', hev'⟩ := exec_keeps_ctrl hi ht
    rw [ht, ← hev, ← hev']
    exact congrArg Host.Outcome.next (closeStep_paused (hctrl'.trans hctrl))
  · subst hi
    rw [exec_stp] at ht ⊢
    cases ht
    rw [← hev]
    exact ⟨rfl, congrArg Host.Outcome.next (closeStep_reported rfl rfl rfl)⟩
  · obtain ⟨q, v, hv, -, -, hctrl', -, htick', hev'⟩ := exec_fault_halted hx
    cases hv
    rw [hpc, hev] at hev'
    rw [hx]
    exact ⟨hctrl', congrArg (fun t => Host.Outcome.fault (Fault.outOfRange p t))
      (closeStep_reported hctrl' hev' (htick'.trans htick))⟩

end Sys2Proof
end

section
/-! SUPPORT. The edits of the breakpoint table as the statements say them: which descriptors are accepted, what each edit
sets or clears, and that it changes the table alone. -/

namespace Sys2Proof

open Machine

namespace Machine

/-! ### Which descriptors are accepted (R470, R480) -/

/-- The last physical address of a descriptor's range: its end, or its address where it names none (R480). -/
def BpDescriptor.last (d : BpDescriptor) : Nat := d.endAddress.getD d.address

theorem kindFlags_iff {k : KindName} {bits : Byte} : kindFlags k bits ↔ kindBits k = some bits := by
  cases k <;> simp [kindFlags, kindBits, eq_comm]

theorem validDescriptor_of_accepted {cfg : Config} {d : BpDescriptor} {bits : Byte} (hk : kindFlags d.kind bits)
    (hl : d.address ≤ d.last) (hm : d.last < cfg.memSize) :
    validDescriptor cfg d = some (bits, d.address, d.last - d.address + 1) := by
  unfold validDescriptor
  rw [kindFlags_iff.1 hk]
  exact if_pos ⟨hl, hm⟩

theorem validDescriptor_of_rejected {cfg : Config} {d : BpDescriptor}
    (h : (∀ bits, ¬ kindFlags d.kind bits) ∨ d.last < d.address ∨ cfg.memSize ≤ d.last) :
    validDescriptor cfg d = none := by
  unfold validDescriptor
  cases hk : kindBits d.kind with
  | none => rfl
  | some bits =>
    have hb : ¬ ∀ bits, ¬ kindFlags d.kind bits := fun hn => hn bits (kindFlags_iff.2 hk)
    have hr := h.resolve_left hb
    exact if_neg (show ¬ (d.address ≤ d.last ∧ d.last < cfg.memSize) by omega)

/-! ### What an edit changes (R471, R472, R481) -/

/-- A state that differs in the breakpoint table alone. -/
def TableEdit (s t : State) : Prop := ∃ dense sparse, t = { s with bpDense := dense, bpSparse := sparse }

theorem TableEdit.refl (s : State) : TableEdit s s := ⟨_, _, rfl⟩

theorem TableEdit.of_setFlags {s t : State} {p : Nat} {v : Byte} (h : TableEdit (s.setFlags p v) t) :
    TableEdit s t := by
  obtain ⟨dense, sparse, rfl⟩ := h
  exact ⟨dense, sparse, rfl⟩

theorem bpAdd_tableEdit (bits : Byte) (n p : Nat) (s : State) : TableEdit s (bpAdd bits n p s) := by
  induction n generalizing p s with
  | zero => exact .refl s
  | succ n ih => exact .of_setFlags (ih _ _)

theorem bpRemove_tableEdit (bits : Byte) (n p : Nat) (s : State) : TableEdit s (bpRemove bits n p s) := by
  induction n generalizing p s with
  | zero => exact .refl s
  | succ n ih => exact .of_setFlags (ih _ _)

theorem addBreakpoint_tableEdit (d : BpDescriptor) (s : State) : TableEdit s (addBreakpoint d s) := by
  unfold addBreakpoint
  split
  · exact .refl s
  · split
    · exact bpAdd_tableEdit _ _ _ _
    · exact .refl s

theorem removeBreakpoint_tableEdit (d : BpDescriptor) (s : State) : TableEdit s (removeBreakpoint d s) := by
  unfold removeBreakpoint
  split
  · exact .refl s
  · exact bpRemove_tableEdit _ _ _ _

/-- A disabled descriptor adds nothing (R481). -/
theorem addBreakpoint_of_disabled {d : BpDescriptor} (h : d.enabled = false) (s : State) : addBreakpoint d s = s := by
  unfold addBreakpoint
  rw [h]
  split <;> rfl

/-- A rejected descriptor edits nothing (R480). -/
theorem breakpointEdit_of_rejected {d : BpDescriptor} {s : State} (h : validDescriptor s.cfg d = none) :
    addBreakpoint d s = s ∧ removeBreakpoint d s = s := by
  unfold addBreakpoint removeBreakpoint
  rw [h]
  exact ⟨rfl, rfl⟩

section Accepted

variable {d : BpDescriptor} {s : State} {bits : Byte} (ht : TableOk s) (hk : kindFlags d.kind bits)
  (hl : d.address ≤ d.last) (hm : d.last < s.cfg.memSize)
include hl

/-- The addresses of a range counted from its first one. -/
theorem BpDescriptor.range_iff (p : Nat) :
    d.address ≤ p ∧ p < d.address + (d.last - d.address + 1) ↔ d.address ≤ p ∧ p ≤ d.last := by
  omega

include ht hk hm

/-- An accepted, enabled descriptor sets its bits on exactly its range (R471). -/
theorem addBreakpoint_sparse (he : d.enabled = true) (p : Nat) :
    (addBreakpoint d s).sparse p =
      if d.address ≤ p ∧ p ≤ d.last then s.sparse p ||| bits else s.sparse p := by
  have hv := validDescriptor_of_accepted hk hl hm
  have hadd : addBreakpoint d s = bpAdd bits (d.last - d.address + 1) d.address s := by
    unfold addBreakpoint
    rw [hv, he]
    rfl
  obtain ⟨-, -, hsparse⟩ := bpAdd_spec bits _ d.address ht (validDescriptor_range hv)
  rw [hadd, hsparse]
  simp only [BpDescriptor.range_iff hl]

/-- An accepted descriptor's removal clears its bits on exactly its range (R472). -/
theorem removeBreakpoint_sparse (p : Nat) :
    (removeBreakpoint d s).sparse p =
      if d.address ≤ p ∧ p ≤ d.last then s.sparse p &&& ~~~bits else s.sparse p := by
  have hv := validDescriptor_of_accepted hk hl hm
  have hremove : removeBreakpoint d s = bpRemove bits (d.last - d.address + 1) d.address s := by
    unfold removeBreakpoint
    rw [hv]
  obtain ⟨-, -, hsparse⟩ := bpRemove_spec bits _ d.address ht (validDescriptor_range hv)
  rw [hremove, hsparse]
  simp only [BpDescriptor.range_iff hl]

end Accepted

end Machine

/-- Settles O47: each edit keeps both structures of the table in agreement, and empty ones agree. -/
theorem breakpointTableAgrees : Obligations.BreakpointTableAgrees := by
  unfold Obligations.BreakpointTableAgrees
  intro s d h
  obtain ⟨-, ht, -⟩ := inv_iff.1 h
  exact ⟨(addBreakpoint_spec d ht).1.tables, (removeBreakpoint_spec d ht).1.tables, (empty_tableOk rfl rfl).tables⟩

/-- Settles O48: an accepted descriptor edits its range, any other nothing, and the host's commands are the edits. -/
theorem breakpointEdits : Obligations.BreakpointEdits := by
  unfold Obligations.BreakpointEdits
  intro s d h last
  obtain ⟨-, ht, -⟩ := inv_iff.1 h
  exact ⟨fun bits hk hl hm => ⟨addBreakpoint_sparse ht hk hl hm, removeBreakpoint_sparse ht hk hl hm⟩,
    fun he => addBreakpoint_of_disabled he s,
    fun hr => breakpointEdit_of_rejected (validDescriptor_of_rejected hr),
    addBreakpoint_tableEdit d s, removeBreakpoint_tableEdit d s,
    fun rest => ⟨fun hc => step_of_command hc rfl, fun hc => step_of_command hc rfl⟩⟩

end Sys2Proof
end

section
/-! SUPPORT. Breakpoints flag a halt and change nothing else of an instruction: the halt an access flags, and each shared
operation run beside itself with another breakpoint table. -/

namespace Sys2Proof

open Machine

namespace Machine

/-! ### The halt an access flags (R476) -/

/-- An evaluated access flags a halt where its flag hits and none is pending (R476). -/
theorem noteAccess_pendingHalt (k : AccessKind) (a : Addr) (s : State) :
    (noteAccess k a s).pendingHalt =
      if s.pendingHalt = none ∧ s.dense a.toNat &&& kindBit k ≠ 0 ∧
          (s.cfg.bpBankExact = false ∨ s.sparse (s.phys k a) &&& kindBit k ≠ 0) then
        some { reason := .breakpoint, address := none }
      else s.pendingHalt := by
  unfold noteAccess
  simp only [Bool.and_eq_true, flagHit_iff, Option.isNone_iff_eq_none, and_comm (b := s.pendingHalt = none)]
  split <;> rfl

theorem memRead_pendingHalt {a : Addr} {s t : State} {v : Byte} (h : memRead a s = .done v t) :
    t.pendingHalt = (noteAccess .read a s).pendingHalt := by
  rw [memRead_eq] at h
  split at h <;> cases h
  rfl

theorem memWrite_pendingHalt {a : Addr} {v : Byte} {s t : State} {x : Unit} (h : memWrite a v s = .done x t) :
    t.pendingHalt = (noteAccess .write a s).pendingHalt := by
  rw [memWrite_eq] at h
  split at h <;> cases h
  rfl

/-! ### The same machine with another breakpoint table -/

variable {dense sparse : List Host.Cell}

/-- The second state is the first with this breakpoint table and any halt flagged. -/
def Retabled (dense sparse : List Host.Cell) (s t : State) : Prop :=
  ∃ ph, t = { s with bpDense := dense, bpSparse := sparse, pendingHalt := ph }

theorem Retabled.reg {s t : State} (h : Retabled dense sparse s t) (r : Reg) : t.reg r = s.reg r := by
  obtain ⟨_, rfl⟩ := h
  cases r <;> rfl

theorem Retabled.setReg {s t : State} (h : Retabled dense sparse s t) (r : Reg) (v : Byte) :
    Retabled dense sparse (s.setReg r v) (t.setReg r v) := by
  obtain ⟨_, rfl⟩ := h
  cases r <;> exact ⟨_, rfl⟩

theorem Retabled.setFlagsP {s t : State} (h : Retabled dense sparse s t) (p : Flags) :
    Retabled dense sparse (s.setFlagsP p) (t.setFlagsP p) := by
  obtain ⟨_, rfl⟩ := h
  exact ⟨_, rfl⟩

theorem Retabled.p {s t : State} (h : Retabled dense sparse s t) : t.p = s.p := by
  obtain ⟨_, rfl⟩ := h
  rfl

theorem Retabled.setRegNZ {s t : State} (h : Retabled dense sparse s t) (r : Reg) (v : Byte) :
    Retabled dense sparse (s.setRegNZ r v) (t.setRegNZ r v) := by
  unfold State.setRegNZ
  rw [h.p]
  exact (h.setReg r v).setFlagsP _

/-- BRK's halt is a flagged halt as well (R479). -/
theorem Retabled.flagBreak {s t : State} (h : Retabled dense sparse s t) :
    Retabled dense sparse (flagBreak s) (flagBreak t) := by
  obtain ⟨_, rfl⟩ := h
  rw [flagBreak_eq, flagBreak_eq]
  exact ⟨_, rfl⟩

/-- A sequence of accesses that completes has a counterpart that completes with the same value, in the same state but for
the table and the halt flagged. -/
def Access.Matched {α : Type} (dense sparse : List Host.Cell) (x y : Access α) : Prop :=
  ∀ v t, x = .done v t → ∃ u, y = .done v u ∧ Retabled dense sparse t u

theorem matched_done {α : Type} {v : α} {s t : State} (h : Retabled dense sparse s t) :
    (Access.done v s).Matched dense sparse (.done v t) := by
  rintro _ _ ⟨⟩
  exact ⟨t, rfl, h⟩

theorem Access.Matched.bind {α β : Type} {x y : Access α} {f g : α → State → Access β}
    (h : x.Matched dense sparse y)
    (hf : ∀ v s t, Retabled dense sparse s t → (f v s).Matched dense sparse (g v t)) :
    (x.bind f).Matched dense sparse (y.bind g) := by
  intro w t hx
  obtain ⟨v, s, hs, ht⟩ := Access.bind_eq_done.1 hx
  obtain ⟨u, hu, hr⟩ := h v s hs
  obtain ⟨z, hz, hr'⟩ := hf v s u hr w t ht
  exact ⟨z, Access.bind_eq_done.2 ⟨v, u, hu, hz⟩, hr'⟩

/-- A piece of the machine that reads neither the breakpoint table nor the halt flagged, but to flag a halt. -/
def Unwatched {α : Type} (op : State → Access α) : Prop :=
  ∀ {dense sparse s t}, Retabled dense sparse s t → (op s).Matched dense sparse (op t)

/-! ### The accesses -/

theorem unwatched_memRead (a : Addr) : Unwatched (memRead a) := by
  rintro dense sparse s _ ⟨ph, rfl⟩ v t h
  rw [memRead_eq] at h ⊢
  split at h <;> cases h
  next hin => exact ⟨_, if_pos hin, _, rfl⟩

theorem unwatched_memWrite (a : Addr) (v : Byte) : Unwatched (memWrite a v) := by
  rintro dense sparse s _ ⟨ph, rfl⟩ x t h
  rw [memWrite_eq] at h ⊢
  split at h <;> cases h
  next hin => exact ⟨_, if_pos hin, _, rfl⟩

theorem unwatched_readPair (l h : Addr) : Unwatched (readPair l h) := fun hr =>
  (unwatched_memRead l hr).bind fun _ _ _ hr => (unwatched_memRead h hr).bind fun _ _ _ hr => matched_done hr

theorem unwatched_push (v : Byte) : Unwatched (push v)
  | _, _, _, _, ⟨_, rfl⟩ => (unwatched_memWrite _ v ⟨_, rfl⟩).bind fun
    | _, _, _, ⟨_, rfl⟩ => matched_done ⟨_, rfl⟩

theorem unwatched_pull : Unwatched pull
  | _, _, _, _, ⟨_, rfl⟩ => unwatched_memRead _ ⟨_, rfl⟩

theorem unwatched_push16 (w : Addr) : Unwatched (push16 w) := fun hr =>
  (unwatched_push _ hr).bind fun _ _ _ hr => unwatched_push _ hr

theorem unwatched_pull16 : Unwatched pull16 := fun hr =>
  (unwatched_pull hr).bind fun _ _ _ hr => (unwatched_pull hr).bind fun _ _ _ hr => matched_done hr

theorem unwatched_takeException (vec ret : Addr) (b : Bool) : Unwatched (takeException vec ret b) := fun hr =>
  (unwatched_push16 ret hr).bind fun
    | _, _, _, ⟨_, rfl⟩ => (unwatched_push _ ⟨_, rfl⟩).bind fun
      | _, _, _, ⟨_, rfl⟩ => (unwatched_readPair _ _ ⟨_, rfl⟩).bind fun
        | _, _, _, ⟨_, rfl⟩ => matched_done ⟨_, rfl⟩

theorem unwatched_returnFromException : Unwatched returnFromException := fun hr =>
  (unwatched_pull hr).bind fun v _ _ hr => (unwatched_pull16 (hr.setFlagsP (flagsOfByte v))).bind fun
    | _, _, _, ⟨_, rfl⟩ => matched_done ⟨_, rfl⟩

theorem unwatched_effAddr (pl : Place) : Unwatched (effAddr pl)
  | _, _, _, _, ⟨_, rfl⟩ => by
    cases pl with
    | izx z => exact (unwatched_readPair _ _ ⟨_, rfl⟩).bind fun _ _ _ hr => matched_done hr
    | izy z => exact (unwatched_readPair _ _ ⟨_, rfl⟩).bind fun
      | _, _, _, ⟨_, rfl⟩ => matched_done ⟨_, rfl⟩
    | izp z => exact (unwatched_readPair _ _ ⟨_, rfl⟩).bind fun _ _ _ hr => matched_done hr
    | _ => exact matched_done ⟨_, rfl⟩

theorem unwatched_readSource (src : Source) : Unwatched (readSource src) := fun hr => by
  cases src with
  | imm v => exact matched_done hr
  | mem pl =>
    exact (unwatched_effAddr pl hr).bind fun ea _ _ hr => (unwatched_memRead ea.addr hr).bind fun _ _ _ hr =>
      matched_done hr

theorem unwatched_indirectTarget (ptr : Addr) : Unwatched (indirectTarget ptr)
  | _, _, _, _, ⟨_, rfl⟩ => by
    rw [indirectTarget_eq, indirectTarget_eq]
    exact unwatched_readPair _ _ ⟨_, rfl⟩

/-! ### The operations -/

/-- A function of the state that reads neither the breakpoint table nor the halt flagged. -/
def TableBlind {α : Type} (f : State → α) : Prop :=
  ∀ (s : State) (dense sparse : List Host.Cell) (ph : Option PendingHalt),
    f { s with bpDense := dense, bpSparse := sparse, pendingHalt := ph } = f s

theorem TableBlind.eq {α : Type} {f : State → α} (hf : TableBlind f) {s t : State} (h : Retabled dense sparse s t) :
    f t = f s := by
  obtain ⟨ph, rfl⟩ := h
  exact hf s dense sparse ph

/-- An update of the state that carries the breakpoint table and the halt flagged along. -/
theorem unwatched_registerOnly {f : State → State}
    (hf : ∀ (s : State) (dense sparse : List Host.Cell) (ph : Option PendingHalt),
      f { s with bpDense := dense, bpSparse := sparse, pendingHalt := ph } =
        { f s with bpDense := dense, bpSparse := sparse, pendingHalt := ph }) : Unwatched (registerOnly f)
  | _, _, _, _, ⟨_, rfl⟩ => matched_done ⟨_, hf _ _ _ _⟩

theorem unwatched_flags (f : Flags → Flags) : Unwatched (registerOnly fun s => s.setFlagsP (f s.p)) :=
  unwatched_registerOnly fun _ _ _ _ => rfl

theorem unwatched_shiftA (f : Byte → Flags → Byte × Flags) : Unwatched (shiftA f) :=
  unwatched_registerOnly fun _ _ _ _ => rfl

theorem unwatched_load (r : Reg) (src : Source) : Unwatched (load r src) := fun hr =>
  (unwatched_readSource src hr).bind fun _ _ _ hr => matched_done (hr.setRegNZ _ _)

theorem unwatched_storeTo {f : State → Byte} (hf : TableBlind f) (pl : Place) : Unwatched (storeTo pl f) := fun hr =>
  (unwatched_effAddr pl hr).bind fun ea s t hr => by
    rw [hf.eq hr]
    exact (unwatched_memWrite ea.addr (f s) hr).bind fun _ _ _ hr => matched_done hr

theorem storeValue_tableBlind {m : Mnemonic} {f : State → Byte} (h : storeValue m = some f) : TableBlind f := by
  cases m <;> cases h <;> exact fun _ _ _ _ => rfl

theorem pushValue_tableBlind {m : Mnemonic} {f : State → Byte} (h : pushValue m = some f) : TableBlind f := by
  cases m <;> cases h <;> exact fun _ _ _ _ => rfl

theorem unwatched_transfer (src dst : Reg) : Unwatched (transfer src dst) := fun hr => by
  simp only [transfer, registerOnly, hr.reg]
  exact matched_done (hr.setRegNZ _ _)

theorem unwatched_changeReg (r : Reg) (f : Byte → Byte) : Unwatched (changeReg r f) := fun hr => by
  simp only [changeReg, registerOnly, hr.reg]
  exact matched_done (hr.setRegNZ _ _)

theorem unwatched_pushed {f : State → Byte} (hf : TableBlind f) :
    Unwatched fun s => (push (f s) s).bind fun _ s => Access.done ({} : Timing) s := fun {_ _ s _} hr => by
  simp only [hf.eq hr]
  exact (unwatched_push (f s) hr).bind fun _ _ _ hr => matched_done hr

theorem unwatched_pullReg (r : Reg) : Unwatched (pullReg r) := fun hr =>
  (unwatched_pull hr).bind fun _ _ _ hr => matched_done (hr.setRegNZ _ _)

theorem unwatched_pullFlags : Unwatched pullFlags := fun hr =>
  (unwatched_pull hr).bind fun _ _ _ hr => matched_done (hr.setFlagsP _)

theorem unwatched_accumulate (f : Variant → Byte → Byte → Flags → Byte × Flags) (src : Source) :
    Unwatched (accumulate f src) := fun hr =>
  (unwatched_readSource src hr).bind fun
    | _, _, _, ⟨_, rfl⟩ => matched_done ⟨_, rfl⟩

theorem unwatched_compareReg (r : Reg) (src : Source) : Unwatched (compareReg r src) := fun hr =>
  (unwatched_readSource src hr).bind fun m s t hr => by
    rw [hr.reg, hr.p]
    exact matched_done (hr.setFlagsP _)

theorem unwatched_logic (f : Byte → Byte → Byte) (src : Source) : Unwatched (logic f src) := fun hr =>
  (unwatched_readSource src hr).bind fun
    | _, _, _, ⟨_, rfl⟩ => matched_done ⟨_, rfl⟩

theorem unwatched_testA (f : Byte → Byte → Flags → Flags) (src : Source) : Unwatched (testA f src) := fun hr =>
  (unwatched_readSource src hr).bind fun
    | _, _, _, ⟨_, rfl⟩ => matched_done ⟨_, rfl⟩

theorem unwatched_modifyFlagsFirst {f : State → Byte → Byte × Flags} (hf : TableBlind f) (pl : Place) :
    Unwatched (modifyFlagsFirst pl f) := fun hr =>
  (unwatched_effAddr pl hr).bind fun ea _ _ hr => (unwatched_memRead ea.addr hr).bind fun m s t hr => by
    rw [hf.eq hr]
    exact (unwatched_memWrite ea.addr (f s m).1 (hr.setFlagsP (f s m).2)).bind fun _ _ _ hr => matched_done hr

theorem unwatched_shiftMem (f : Byte → Flags → Byte × Flags) (pl : Place) : Unwatched (shiftMem f pl) :=
  unwatched_modifyFlagsFirst (fun _ _ _ _ => rfl) pl

theorem unwatched_testAndChange (f : Byte → Byte → Byte) (pl : Place) : Unwatched (testAndChange f pl) :=
  unwatched_modifyFlagsFirst (fun _ _ _ _ => rfl) pl

theorem unwatched_modifyFlagsLast (pl : Place) (f : Byte → Byte) (fl : Byte → Flags → Flags) :
    Unwatched (modifyFlagsLast pl f fl) := fun hr =>
  (unwatched_effAddr pl hr).bind fun ea _ _ hr => (unwatched_memRead ea.addr hr).bind fun m _ _ hr =>
    (unwatched_memWrite ea.addr (f m) hr).bind fun
      | _, _, _, ⟨_, rfl⟩ => matched_done ⟨_, rfl⟩

theorem unwatched_jump (a : Addr) : Unwatched (jump a)
  | _, _, _, _, ⟨_, rfl⟩ => matched_done ⟨_, rfl⟩

/-- An address is found, and PC is set from it. -/
theorem unwatched_jumpTo {op : State → Access Addr} (h : Unwatched op) (f : Addr → Addr) :
    Unwatched fun s => (op s).bind fun target s => Access.done ({} : Timing) (s.setPc (f target)) := fun hr =>
  (h hr).bind fun
    | _, _, _, ⟨_, rfl⟩ => matched_done ⟨_, rfl⟩

theorem unwatched_jumpIndexedIndirect (a : Addr) : Unwatched (jumpIndexedIndirect a)
  | _, _, _, _, ⟨_, rfl⟩ => (unwatched_readPair _ _ ⟨_, rfl⟩).bind fun
    | _, _, _, ⟨_, rfl⟩ => matched_done ⟨_, rfl⟩

theorem unwatched_jumpSubroutine (a : Addr) : Unwatched (jumpSubroutine a)
  | _, _, _, _, ⟨_, rfl⟩ => (unwatched_push16 _ ⟨_, rfl⟩).bind fun
    | _, _, _, ⟨_, rfl⟩ => matched_done ⟨_, rfl⟩

theorem unwatched_returnFromInterrupt : Unwatched returnFromInterrupt := fun hr =>
  (unwatched_returnFromException hr).bind fun _ _ _ hr => matched_done hr

theorem unwatched_softwareInterrupt : Unwatched softwareInterrupt
  | _, _, _, _, ⟨_, rfl⟩ => (unwatched_takeException _ _ _ ⟨_, rfl⟩).bind fun _ _ _ hr => matched_done hr.flagBreak

theorem unwatched_branchIf (cond : Flags → Bool) (r : Byte) : Unwatched (branchIf cond r) := fun {_ _ s t} hr => by
  unfold branchIf
  rw [hr.p]
  obtain ⟨_, rfl⟩ := hr
  split <;> exact matched_done ⟨_, rfl⟩

theorem unwatched_branchAlways (r : Byte) : Unwatched (branchAlways r)
  | _, _, _, _, ⟨_, rfl⟩ => matched_done ⟨_, rfl⟩

theorem unwatched_branchOnBit (n : Nat) (want : Bool) (z r : Byte) : Unwatched (branchOnBit n want z r) := fun hr =>
  (unwatched_memRead _ hr).bind fun _ _ _ hr => unwatched_branchIf _ _ hr

theorem exec_store_unwatched {i : Instr} {f : State → Byte} {pl : Place} (h : storeValue i.mnemonic = some f)
    (hp : i.operand.place? = some pl) : ∃ op, (∀ s, exec i s = instruction i op s) ∧ Unwatched op :=
  ⟨_, fun _ => exec_store h hp, unwatched_storeTo (storeValue_tableBlind h) pl⟩

theorem exec_push_unwatched {i : Instr} {f : State → Byte} (h : pushValue i.mnemonic = some f) :
    ∃ op, (∀ s, exec i s = instruction i op s) ∧ Unwatched op :=
  ⟨_, fun _ => exec_push h, unwatched_pushed (pushValue_tableBlind h)⟩

theorem exec_flag_unwatched {i : Instr} {f : Flags → Flags} (h : flagOp i.mnemonic = some f) :
    ∃ op, (∀ s, exec i s = instruction i op s) ∧ Unwatched op :=
  ⟨_, fun _ => exec_flag h, unwatched_flags f⟩

/-- Every instruction is the frame around an operation that reads neither the breakpoint table nor the halt flagged. -/
theorem exec_unwatched (i : Instr) : ∃ op, (∀ s, exec i s = instruction i op s) ∧ Unwatched op := by
  cases i
  case ldaIzx | ldaZp | ldaImm | ldaAbs | ldaIzy | ldaIzp | ldaZpx | ldaAby | ldaAbx | ldxImm | ldxZp | ldxAbs |
      ldxZpy | ldxAby | ldyImm | ldyZp | ldyAbs | ldyZpx | ldyAbx =>
    exact ⟨_, fun _ => exec_load rfl rfl, unwatched_load _ _⟩
  case staIzx | staZp | staAbs | staIzy | staIzp | staZpx | staAby | staAbx | stxZp | stxAbs | stxZpy | styZp |
      styAbs | styZpx | stzZp | stzZpx | stzAbs | stzAbx =>
    exact exec_store_unwatched rfl rfl
  case tax | tay | tsx | txa | tya =>
    exact ⟨_, fun _ => exec_transfer rfl, unwatched_transfer _ _⟩
  case txs =>
    exact ⟨registerOnly fun s => s.setReg .sp s.x, fun _ => rfl, unwatched_registerOnly fun _ _ _ _ => rfl⟩
  case pha | php | phx | phy =>
    exact exec_push_unwatched rfl
  case pla | plx | ply =>
    exact ⟨_, fun _ => exec_pull rfl, unwatched_pullReg _⟩
  case plp =>
    exact ⟨_, fun _ => rfl, unwatched_pullFlags⟩
  case adcIzx | adcZp | adcImm | adcAbs | adcIzy | adcIzp | adcZpx | adcAby | adcAbx =>
    exact ⟨_, fun _ => exec_adc rfl rfl, unwatched_accumulate addWithCarry _⟩
  case sbcIzx | sbcZp | sbcImm | sbcAbs | sbcIzy | sbcIzp | sbcZpx | sbcAby | sbcAbx =>
    exact ⟨_, fun _ => exec_sbc rfl rfl, unwatched_accumulate subWithBorrow _⟩
  case cmpIzx | cmpZp | cmpImm | cmpAbs | cmpIzy | cmpIzp | cmpZpx | cmpAby | cmpAbx | cpxImm | cpxZp | cpxAbs |
      cpyImm | cpyZp | cpyAbs =>
    exact ⟨_, fun _ => exec_compare rfl rfl, unwatched_compareReg _ _⟩
  case andIzx | andZp | andImm | andAbs | andIzy | andIzp | andZpx | andAby | andAbx | eorIzx | eorZp | eorImm |
      eorAbs | eorIzy | eorIzp | eorZpx | eorAby | eorAbx | oraIzx | oraZp | oraImm | oraAbs | oraIzy | oraIzp |
      oraZpx | oraAby | oraAbx =>
    exact ⟨_, fun _ => exec_logic rfl rfl, unwatched_logic _ _⟩
  case bitImm v =>
    exact ⟨_, fun _ => rfl, unwatched_testA testZero (.imm v)⟩
  case bitZp | bitAbs | bitZpx | bitAbx =>
    exact ⟨_, fun _ => exec_bitMem rfl rfl, unwatched_testA _ _⟩
  case aslAcc | lsrAcc | rolAcc | rorAcc =>
    exact ⟨_, fun _ => exec_shiftA rfl rfl, unwatched_shiftA _⟩
  case aslZp | aslAbs | aslZpx | aslAbx | lsrZp | lsrAbs | lsrZpx | lsrAbx | rolZp | rolAbs | rolZpx | rolAbx |
      rorZp | rorAbs | rorZpx | rorAbx =>
    exact ⟨_, fun _ => exec_shiftMem rfl rfl, unwatched_shiftMem _ _⟩
  case decAcc | incAcc =>
    exact ⟨_, fun _ => exec_incDecA rfl rfl, unwatched_changeReg _ _⟩
  case decZp | decAbs | decZpx | decAbx | incZp | incAbs | incZpx | incAbx =>
    exact ⟨_, fun _ => exec_incDecMem rfl rfl, unwatched_modifyFlagsLast _ _ _⟩
  case dex | dey | inx | iny =>
    exact ⟨_, fun _ => exec_indexStep rfl, unwatched_changeReg _ _⟩
  case trbZp | trbAbs | tsbZp | tsbAbs =>
    exact ⟨_, fun _ => exec_testAndSet rfl rfl, unwatched_testAndChange _ _⟩
  case rmb0 | rmb1 | rmb2 | rmb3 | rmb4 | rmb5 | rmb6 | rmb7 =>
    exact ⟨_, fun _ => exec_resetBit rfl rfl, unwatched_modifyFlagsLast _ _ _⟩
  case smb0 | smb1 | smb2 | smb3 | smb4 | smb5 | smb6 | smb7 =>
    exact ⟨_, fun _ => exec_setBit rfl rfl, unwatched_modifyFlagsLast _ _ _⟩
  case jmpAbs a =>
    exact ⟨jump a, fun _ => rfl, unwatched_jump a⟩
  case jmpInd a =>
    exact ⟨_, fun _ => rfl, unwatched_jumpTo (unwatched_indirectTarget a) fun w => w⟩
  case jmpIax =>
    exact ⟨_, fun _ => rfl, unwatched_jumpIndexedIndirect _⟩
  case jsr =>
    exact ⟨_, fun _ => rfl, unwatched_jumpSubroutine _⟩
  case rts =>
    exact ⟨_, fun _ => rfl, unwatched_jumpTo unwatched_pull16 (· + 1)⟩
  case rti =>
    exact ⟨_, fun _ => rfl, unwatched_returnFromInterrupt⟩
  case brk =>
    exact ⟨_, fun _ => rfl, unwatched_softwareInterrupt⟩
  case bcc | bcs | beq | bmi | bne | bpl | bvc | bvs =>
    exact ⟨_, fun _ => exec_branch rfl rfl, unwatched_branchIf _ _⟩
  case bra =>
    exact ⟨_, fun _ => rfl, unwatched_branchAlways _⟩
  case bbr0 | bbr1 | bbr2 | bbr3 | bbr4 | bbr5 | bbr6 | bbr7 | bbs0 | bbs1 | bbs2 | bbs3 | bbs4 | bbs5 | bbs6 |
      bbs7 =>
    exact ⟨_, fun _ => exec_bitBranch rfl rfl, unwatched_branchOnBit _ _ _ _⟩
  case clc | cld | cli | clv | sec | sed | sei =>
    exact exec_flag_unwatched rfl
  case nop =>
    exact ⟨registerOnly fun s => s, fun _ => rfl, unwatched_registerOnly fun _ _ _ _ => rfl⟩
  case wai =>
    exact ⟨registerOnly fun s => { s with waiting := true }, fun _ => rfl,
      unwatched_registerOnly fun _ _ _ _ => rfl⟩
  case stp =>
    exact ⟨registerOnly stopProcessor, fun _ => rfl, unwatched_registerOnly fun _ _ _ _ => rfl⟩

/-- With another breakpoint table an instruction answers the same next state, but for the table and the halt it flags
(R230). -/
theorem exec_retabled {i : Instr} {s s' t : State} (hs : Retabled dense sparse s s') (h : exec i s = .next t) :
    ∃ t', exec i s' = .next t' ∧ Retabled dense sparse t t' := by
  obtain ⟨op, he, hop⟩ := exec_unwatched i
  rw [he] at h ⊢
  obtain ⟨ti, u, hu, rfl⟩ := instruction_next.1 h
  have hadvance : Retabled dense sparse (s.advance i) (s'.advance i) := by
    obtain ⟨ph, rfl⟩ := hs
    exact ⟨ph, rfl⟩
  obtain ⟨_, hu', _, rfl⟩ := hop hadvance ti u hu
  exact ⟨_, instruction_done hu', _, rfl⟩

end Machine

/-- Settles O46: each data access flags by R476, and no operation reads the table or the halt but to flag one. -/
theorem breakpointsOnlyFlag : Obligations.BreakpointsOnlyFlag := by
  unfold Obligations.BreakpointsOnlyFlag
  refine ⟨fun s t a v h => ?_, fun s t a v h => ?_, fun i s t dense sparse h => ?_⟩
  · exact (memRead_pendingHalt h).trans (noteAccess_pendingHalt .read a s)
  · exact (memWrite_pendingHalt h).trans (noteAccess_pendingHalt .write a s)
  · obtain ⟨_, ht, ph, rfl⟩ := exec_retabled (dense := dense) (sparse := sparse) ⟨s.pendingHalt, rfl⟩ h
    exact ⟨ph, ht⟩

end Sys2Proof
end

section
/-! SUPPORT. What a step of the machine leaves of `CTRL` and of the configuration: a Halted machine leaves it only at a
reset or an init, and the configuration changes only at an init. -/

namespace Sys2Proof

open Machine

namespace Machine

/-! ### What a step is -/

/-- A step of the machine is one of the engine, or a command of the host carried out (R170, R485). -/
theorem step_next {s t : State} (h : step s = .next t) :
    (∃ cs, engineStep { s with commands := cs } = .next t) ∨
      ∃ c rest, s.commands = .now c :: rest ∧ perform c { s with commands := rest } = .next t := by
  unfold step hostedStep at h
  split at h
  · exact .inl ⟨s.commands, h⟩
  · exact .inl ⟨_, h⟩
  · next c rest hc =>
    split at h
    · exact .inl ⟨s.commands, h⟩
    · exact .inr ⟨c, rest, hc, h⟩

/-! ### The host's edits (R89, R496) -/

/-- An edit of the host's changes neither `CTRL` nor the configuration. -/
theorem writeChannel_keeps (offset : Fin 7) (v : Byte) (s : State) :
    (writeChannel offset v s).ctrl = s.ctrl ∧ (writeChannel offset v s).cfg = s.cfg := by
  fin_cases offset <;> exact ⟨rfl, rfl⟩

theorem debugWrite_keeps (a : Addr) (v : Byte) (s : State) :
    (debugWrite a v s).ctrl = s.ctrl ∧ (debugWrite a v s).cfg = s.cfg := by
  unfold debugWrite
  simp only
  split <;> exact ⟨rfl, rfl⟩

theorem debugWrite_of_inRange {a : Addr} {s : State} (v : Byte) (h : s.phys .write a < s.cfg.memSize) :
    debugWrite a v s = s.setMemByte (s.phys .write a) v :=
  if_pos h

theorem debugWrite_of_outOfRange {a : Addr} {s : State} (v : Byte) (h : s.cfg.memSize ≤ s.phys .write a) :
    debugWrite a v s = s :=
  if_neg (Nat.not_lt.2 h)

/-- A host edit of registers or memory that has a move is made while `CTRL` is not Running (R496, R89). -/
theorem perform_writeChannel {offset : Fin 7} {v : Byte} {s : State} (h : s.ctrl ≠ .running) :
    perform (.writeChannel offset v) s = .next (writeChannel offset v s) :=
  if_pos (bne_iff_ne.2 h)

theorem perform_debugWrite {a : Addr} {v : Byte} {s : State} (h : s.ctrl ≠ .running) :
    perform (.debugWrite a v) s = .next (debugWrite a v s) :=
  if_pos (bne_iff_ne.2 h)

/-- While Running a host edit is refused by name (R536). -/
theorem perform_edit_running {s : State} (h : s.ctrl = .running) :
    (∀ offset v, perform (.writeChannel offset v) s = .refused .hostEditWhileRunning) ∧
      ∀ a v, perform (.debugWrite a v) s = .refused .hostEditWhileRunning := by
  have he : ¬ s.editable = true := by simp [State.editable, h]
  exact ⟨fun _ _ => if_neg he, fun _ _ => if_neg he⟩

/-- A host edit that answers a next state is the edit carried out. -/
theorem perform_writeChannel_next {offset : Fin 7} {v : Byte} {s t : State}
    (h : perform (.writeChannel offset v) s = .next t) : t = writeChannel offset v s := by
  simp only [perform] at h
  split at h <;> cases h
  rfl

theorem perform_debugWrite_next {a : Addr} {v : Byte} {s t : State} (h : perform (.debugWrite a v) s = .next t) :
    t = debugWrite a v s := by
  simp only [perform] at h
  split at h <;> cases h
  rfl

/-! ### The configuration -/

theorem engineStep_cfg {s t : State} (h : engineStep s = .next t) : t.cfg = s.cfg := by
  rcases engineStep_next h with ⟨-, hb⟩ | ⟨-, rfl⟩ | rfl
  · rcases boundary_next hb with rfl | ⟨-, -, ⟨ph, rfl⟩ | rfl | rfl | ho⟩
    · rfl
    · rfl
    · rfl
    · rfl
    · exact (oneStep_moves ho).cfg
  · rfl
  · rfl

theorem reset_cfg {cold : Bool} {s t : State} (h : reset cold s = .next t) : t.cfg = s.cfg := by
  obtain ⟨u, target, hu, rfl⟩ := reset_next h
  show u.cfg = s.cfg
  rw [hu]
  cases cold <;> rfl

/-- An init is rejected, or leaves its own configuration (R525). -/
theorem init_cfg {cfg : Config} {s t : State} (h : init cfg s = .next t) : t.cfg = s.cfg ∨ t.cfg = cfg := by
  rcases init_next h with ⟨-, rfl⟩ | ⟨m, r, -, hr, rfl⟩
  · exact .inl rfl
  · exact .inr (reset_cfg hr)

theorem hostStep_cfg {s t : State} (h : hostStep s = .next t) : t.cfg = s.cfg := by
  rcases hostStep_next h with ⟨rfl, -⟩ | ⟨r, u, -, hu, rfl⟩
  · rfl
  · obtain ⟨c, ph, ch, ev, he, -⟩ := closeStep_spec u
    rw [he]
    exact (oneStep_moves hu).cfg

theorem hostRun_cfg (start : Option Addr) (s : State) : (hostRun start s).cfg = s.cfg := by
  unfold hostRun
  split <;> cases start <;> rfl

theorem hostPause_cfg (s : State) : (hostPause s).cfg = s.cfg := by
  unfold hostPause
  split <;> rfl

theorem TableEdit.cfg {s t : State} (h : TableEdit s t) : t.cfg = s.cfg := by
  obtain ⟨_, _, rfl⟩ := h
  rfl

theorem TableEdit.ctrl {s t : State} (h : TableEdit s t) : t.ctrl = s.ctrl := by
  obtain ⟨_, _, rfl⟩ := h
  rfl

/-- Every command but an init keeps the configuration (R524). -/
theorem perform_cfg {c : Command} {s t : State} (h : perform c s = .next t) :
    t.cfg = s.cfg ∨ ∃ cfg, c = .init cfg ∧ t.cfg = cfg := by
  cases c with
  | init cfg => exact (init_cfg h).imp_right fun hc => ⟨cfg, rfl, hc⟩
  | reset cold => exact .inl (reset_cfg h)
  | run start => cases h; exact .inl (hostRun_cfg start s)
  | pause => cases h; exact .inl (hostPause_cfg s)
  | step => exact .inl (hostStep_cfg h)
  | setSpeed m => cases h; exact .inl rfl
  | setTickLength d => cases h; exact .inl rfl
  | addBreakpoint d => cases h; exact .inl (addBreakpoint_tableEdit d s).cfg
  | removeBreakpoint d => cases h; exact .inl (removeBreakpoint_tableEdit d s).cfg
  | clearBreakpoints => cases h; exact .inl rfl
  | writeChannel offset v =>
    obtain rfl := perform_writeChannel_next h
    exact .inl (writeChannel_keeps offset v s).2
  | debugWrite a v =>
    obtain rfl := perform_debugWrite_next h
    exact .inl (debugWrite_keeps a v s).2

/-! ### A Halted machine -/

section Halted

variable {s t : State} {r : HaltReason} (hc : s.ctrl = .halted r)
include hc

theorem hostRun_halted (start : Option Addr) : hostRun start s = s := by
  unfold hostRun
  rw [hc]

theorem hostPause_halted : hostPause s = s := by
  unfold hostPause
  rw [hc]

/-- The engine of a Halted machine at most leaves the tick STP ended (R412, R491). -/
theorem engineStep_halted (hi : Inv s) (h : engineStep s = .next t) : t.ctrl = .halted r := by
  have hnr : s.ctrl ≠ .running := by simp [hc]
  rcases engineStep_next h with ⟨htick, hb⟩ | ⟨hr, -⟩ | rfl
  · have hstop : s.stopped = true := hi.stop.2 ((hi.ticking htick).resolve_left hnr)
    rw [boundary_of_dead (.inr hstop)] at hb
    cases hb
    exact hc
  · exact absurd hr hnr
  · exact hc

/-- No command but a reset or an init takes a machine out of Halted (R491). -/
theorem perform_halted {c : Command} (h : perform c s = .next t) :
    t.ctrl = .halted r ∨ (∃ cold, c = .reset cold) ∨ ∃ cfg, c = .init cfg := by
  cases c with
  | init cfg => exact .inr (.inr ⟨cfg, rfl⟩)
  | reset cold => exact .inr (.inl ⟨cold, rfl⟩)
  | run start => cases h; exact .inl (by rw [hostRun_halted hc, hc])
  | pause => cases h; exact .inl (by rw [hostPause_halted hc, hc])
  | step =>
    rw [perform, hostStep_not_paused (by simp [hc])] at h
    cases h
    exact .inl hc
  | setSpeed m => cases h; exact .inl hc
  | setTickLength d => cases h; exact .inl hc
  | addBreakpoint d => cases h; exact .inl ((addBreakpoint_tableEdit d s).ctrl.trans hc)
  | removeBreakpoint d => cases h; exact .inl ((removeBreakpoint_tableEdit d s).ctrl.trans hc)
  | clearBreakpoints => cases h; exact .inl hc
  | writeChannel offset v =>
    obtain rfl := perform_writeChannel_next h
    exact .inl ((writeChannel_keeps offset v s).1.trans hc)
  | debugWrite a v =>
    obtain rfl := perform_debugWrite_next h
    exact .inl ((debugWrite_keeps a v s).1.trans hc)

end Halted

/-! ### A host's commands, by the state they find -/

/-- With no command of the host, a step is the engine's own. -/
theorem step_of_noCommand {s : State} (h : s.commands = []) : step s = engineStep s := by
  unfold step hostedStep
  rw [h]

/-- `run` starts a machine that is Stopped or Paused, and sets PC where it gives an address (R488). -/
theorem hostRun_startable {s : State} (h : s.ctrl = .stopped ∨ ∃ reason, s.ctrl = .paused reason) :
    hostRun none s = { s with ctrl := .running } ∧
      ∀ a, hostRun (some a) s = { s with ctrl := .running, pc := a, skipPcBp := false } := by
  unfold hostRun
  rcases h with h | ⟨reason, h⟩ <;> rw [h] <;> exact ⟨rfl, fun _ => rfl⟩

/-- `run` has no effect while Running (R488). -/
theorem hostRun_running {s : State} (h : s.ctrl = .running) (start : Option Addr) : hostRun start s = s := by
  unfold hostRun
  rw [h]

/-- `pause` is a request while Running, and has no effect otherwise (R489). -/
theorem hostPause_running {s : State} (h : s.ctrl = .running) : hostPause s = { s with pauseReq := true } := by
  unfold hostPause
  rw [h]

theorem hostPause_not_running {s : State} (h : s.ctrl ≠ .running) : hostPause s = s := by
  unfold hostPause
  split
  · next hr => exact absurd hr h
  all_goals rfl

/-- The budget of a tick is the floor of cycles per second times multiplier times seconds (R492). -/
theorem tickBudget_floor (clockHz : Nat) {m d : Ratio} (hm : 0 < m.den) (hd : 0 < d.den) :
    tickBudget clockHz m d * (m.den * d.den) ≤ clockHz * m.num * d.num ∧
      clockHz * m.num * d.num < (tickBudget clockHz m d + 1) * (m.den * d.den) :=
  ⟨Nat.div_mul_le_self _ _, (Nat.div_lt_iff_lt_mul (Nat.mul_pos hm hd)).1 (Nat.lt_succ_self _)⟩

theorem engineStep_running {s : State} (ht : s.inTick = false) (h : s.ctrl = .running) :
    engineStep s = .next (beginTick s) := by
  unfold engineStep
  rw [ht, h]
  rfl

theorem engineStep_idle {s : State} (ht : s.inTick = false) (h : s.ctrl ≠ .running) : engineStep s = .next s := by
  unfold engineStep
  rw [ht]
  simp only [Bool.false_eq_true, if_false]
  split
  · next hr => exact absurd hr h
  all_goals rfl

end Machine

/-- Settles O51: neither the engine nor a command but the two takes the machine out of Halted. -/
theorem haltedIsTerminal : Obligations.HaltedIsTerminal := by
  unfold Obligations.HaltedIsTerminal
  intro s t r hi hc h
  rcases step_next h with ⟨cs, he⟩ | ⟨c, rest, hcmd, hp⟩
  · exact .inl (engineStep_halted (s := { s with commands := cs }) hc (hi.setCommands cs) he)
  · rcases perform_halted (s := { s with commands := rest }) hc hp with ht | ⟨cold, rfl⟩ | ⟨cfg, rfl⟩
    · exact .inl ht
    · exact .inr ⟨rest, .inl ⟨cold, hcmd⟩⟩
    · exact .inr ⟨rest, .inr ⟨cfg, hcmd⟩⟩

/-- Settles O52: the engine and every command but an init keep the configuration. -/
theorem configurationIsFixed : Obligations.ConfigurationIsFixed := by
  unfold Obligations.ConfigurationIsFixed
  intro s t h
  rcases step_next h with ⟨cs, he⟩ | ⟨c, rest, hcmd, hp⟩
  · exact .inl (engineStep_cfg (s := { s with commands := cs }) he)
  · exact (perform_cfg hp).imp_right fun ⟨cfg, hc, ht⟩ => ⟨cfg, rest, hc ▸ hcmd, ht⟩

/-- Settles O53: each command is carried out at once, by the state it finds; with none, the engine begins a tick or stays. -/
theorem hostEditsAndCommands : Obligations.HostEditsAndCommands := by
  unfold Obligations.HostEditsAndCommands
  intro s rest t
  have hstep : ∀ {c}, betweenTicks c = false → s.commands = .now c :: rest → step s = perform c t :=
    fun hb hc => step_of_command hc hb
  have hwrite : ∀ {offset v}, s.ctrl ≠ .running → s.commands = .now (.writeChannel offset v) :: rest →
      step s = .next (writeChannel offset v t) :=
    fun hr hc => (hstep rfl hc).trans (perform_writeChannel (s := t) hr)
  refine ⟨fun hr => ⟨fun v => ⟨hwrite hr, hwrite hr, hwrite hr, hwrite hr, hwrite hr, hwrite hr, hwrite hr⟩,
    fun a v hc => ?_⟩, fun hr => ?_, fun hr => ?_, fun hr start hc => ?_, fun hc => ?_, fun m hc => hstep rfl hc,
    fun hc ht => ?_⟩
  · rw [(hstep rfl hc).trans (perform_debugWrite (s := t) hr)]
    exact ⟨fun hin => congrArg _ (debugWrite_of_inRange (s := t) v hin),
      fun hout => congrArg _ (debugWrite_of_outOfRange (s := t) v hout)⟩
  · obtain ⟨hchannel, hmemory⟩ := perform_edit_running (s := t) hr
    exact ⟨fun offset v hc => (hstep rfl hc).trans (hchannel offset v),
      fun a v hc => (hstep rfl hc).trans (hmemory a v)⟩
  · obtain ⟨hnone, hsome⟩ := hostRun_startable (s := t) hr
    exact ⟨fun hc => (hstep rfl hc).trans (congrArg _ hnone),
      fun a hc => (hstep rfl hc).trans (congrArg _ (hsome a))⟩
  · have hrun : hostRun start t = t := by
      rcases hr with hr | ⟨reason, hr⟩
      · exact hostRun_running (s := t) hr start
      · exact hostRun_halted (s := t) hr start
    exact (hstep rfl hc).trans (congrArg _ hrun)
  · exact ⟨fun hr => (hstep rfl hc).trans (congrArg _ (hostPause_running (s := t) hr)),
      fun hr => (hstep rfl hc).trans (congrArg _ (hostPause_not_running (s := t) hr))⟩
  · rw [step_of_noCommand hc]
    exact ⟨fun hr => ⟨_, engineStep_running ht hr, tickBudget_floor _⟩, fun hr => engineStep_idle ht hr⟩

end Sys2Proof
end

section
/-! SUPPORT. The disassembler read forwards: the line at an address, the stream of lines from an address on, and the nearest
distance from which it ends at a target. -/

namespace Sys2Proof

open Machine

namespace Machine

/-! ### A line (R500) -/

theorem readBytes_succ {readByte : Addr → Option Byte} {a : Addr} {n : Nat} {op : Byte} {bs : List Byte} :
    readBytes readByte a (n + 1) = some (op :: bs) ↔
      readByte a = some op ∧ readBytes readByte (a + 1) n = some bs := by
  rw [readBytes]
  cases readByte a <;> cases readBytes readByte (a + 1) n <;> simp

/-- Every instruction has at least its opcode byte (R130). -/
theorem length_pos (i : Instr) : 0 < i.length := by
  rw [← length_encode]
  exact List.length_pos_of_ne_nil (List.cons_ne_nil _ _)

/-- A line is at least one byte long. -/
theorem decodeOne_length_pos {v : Variant} {readByte : Addr → Option Byte} {a : Addr} {l : Line}
    (h : decodeOne v readByte a = some l) : 0 < l.length := by
  unfold decodeOne at h
  split at h
  · cases h
  · next op _ =>
    split at h
    · cases h
      exact Nat.one_pos
    · next n hn =>
      obtain ⟨f, -, rfl⟩ := Option.map_eq_some_iff.1 hn
      split at h
      · cases h
      · split at h <;> cases h
        exact length_pos f.sample

/-- Where the encoding of an instruction of the variant stands, the line is that instruction (R500). -/
theorem decodeOne_of_encode {v : Variant} {readByte : Addr → Option Byte} {a : Addr} {i : Instr} (hw : i.wf v = true)
    (h : readBytes readByte a i.length = some (encode i)) :
    decodeOne v readByte a =
      some { address := a, raw := encode i, instr := some i, length := i.length, cycles := i.baseCycles v } := by
  have hd : decode v (i.opcode :: i.operand.bytes) = .ok (i, []) := by
    simpa [encode] using decodeOfEncode v i [] hw
  obtain ⟨hop, hbytes⟩ := readBytes_succ.1 ((Nat.succ_pred_eq_of_pos (length_pos i)).symm ▸ h)
  unfold decodeOne
  simp only [hop, opcodeLength_of_wf hw]
  rw [Nat.pred_eq_sub_one] at hbytes
  simp only [hbytes, hd]
  rfl

/-- Where the opcode byte is that of no instruction of the variant, the line is the invalid one (R500). -/
theorem decodeOne_of_invalid {v : Variant} {readByte : Addr → Option Byte} {a : Addr} {op : Byte}
    (hop : readByte a = some op) (hi : ∀ i : Instr, i.wf v = true → i.opcode ≠ op) :
    decodeOne v readByte a = some { address := a, raw := [op], instr := none, length := 1, cycles := 1 } := by
  have hl : opcodeLength v op = none := by
    unfold opcodeLength
    rw [lookupOpcode_eq_none_iff.2 hi]
    rfl
  unfold decodeOne
  simp only [hop, hl]

/-! ### The stream of lines from an address on (R502) -/

section Stream

variable {v : Variant} {readByte : Addr → Option Byte}

/-- One line of the stream: it is valid and either ends at the target or leaves a rest that lands (R502). -/
theorem landsOn_succ_eq_some {fuel dist : Nat} {a b : Addr} :
    landsOn v readByte (fuel + 1) dist a = some b ↔
      ∃ l, decodeOne v readByte a = some l ∧ l.instr.isSome = true ∧
        ((l.length = dist ∧ a = b) ∨
          (l.length < dist ∧
            landsOn v readByte fuel (dist - l.length) (a + BitVec.ofNat 16 l.length) = some b)) := by
  rw [landsOn]
  cases hl : decodeOne v readByte a with
  | none => simp
  | some l =>
    cases hi : l.instr with
    | none => simp [hi]
    | some i =>
      rcases Nat.lt_trichotomy l.length dist with hlt | heq | hgt
      · simp [hi, hlt, hlt.ne]
      · simp [hi, heq]
      · simp [hi, hgt.ne', hgt.not_gt]

/-- A landing stream found with enough fuel is one that lands (R502). -/
theorem forwardLands_of_landsOn {fuel dist : Nat} {a b : Addr} (h : landsOn v readByte fuel dist a = some b) :
    ForwardLands v readByte a dist b := by
  induction fuel generalizing dist a with
  | zero => cases h
  | succ fuel ih =>
    obtain ⟨l, hl, hi, ⟨rfl, rfl⟩ | ⟨hlt, hrest⟩⟩ := landsOn_succ_eq_some.1 h
    · exact .last hl hi
    · have hsum : l.length + (dist - l.length) = dist := by omega
      exact hsum ▸ .more hl hi (ih hrest)

/-- A stream that lands is found with as much fuel as it has bytes, since every line has one. -/
theorem landsOn_of_forwardLands {dist : Nat} {a b : Addr} (h : ForwardLands v readByte a dist b) :
    0 < dist ∧ ∀ fuel, dist ≤ fuel → landsOn v readByte fuel dist a = some b := by
  induction h with
  | last hl hi =>
    refine ⟨decodeOne_length_pos hl, fun fuel hf => ?_⟩
    have := decodeOne_length_pos hl
    obtain ⟨n, rfl⟩ : ∃ n, fuel = n + 1 := ⟨fuel - 1, by omega⟩
    exact landsOn_succ_eq_some.2 ⟨_, hl, hi, .inl ⟨rfl, rfl⟩⟩
  | @more a b dist l hl hi _ ih =>
    have hpos := decodeOne_length_pos hl
    refine ⟨by omega, fun fuel hf => ?_⟩
    obtain ⟨n, rfl⟩ : ∃ n, fuel = n + 1 := ⟨fuel - 1, by omega⟩
    have hrest := ih.2 n (by omega)
    refine landsOn_succ_eq_some.2 ⟨_, hl, hi, .inr ⟨by omega, ?_⟩⟩
    rwa [Nat.add_sub_cancel_left]

theorem landsOn_iff {dist : Nat} {a b : Addr} :
    landsOn v readByte dist dist a = some b ↔ ForwardLands v readByte a dist b :=
  ⟨forwardLands_of_landsOn, fun h => (landsOn_of_forwardLands h).2 dist le_rfl⟩

/-- The last instruction of a stream that lands is valid and ends where the distance does. -/
theorem forwardLands_ends {dist : Nat} {a b : Addr} (h : ForwardLands v readByte a dist b) :
    ∃ l i, decodeOne v readByte b = some l ∧ l.instr = some i ∧
      b + BitVec.ofNat 16 l.length = a + BitVec.ofNat 16 dist := by
  induction h with
  | last hl hi =>
    obtain ⟨i, hi⟩ := Option.isSome_iff_exists.1 hi
    exact ⟨_, i, hl, hi, rfl⟩
  | more _ _ _ ih =>
    obtain ⟨l, i, hl, hi, hend⟩ := ih
    exact ⟨l, i, hl, hi, by rw [hend, BitVec.ofNat_add, BitVec.add_assoc]⟩

/-! ### The nearest landing distance (R502, R503) -/

variable {target : Addr}

/-- With no landing distance among the next `n`, none is found. -/
theorem firstLanding_eq_none {n d : Nat}
    (h : ∀ e, d ≤ e → e < d + n → ∀ b, ¬ ForwardLands v readByte (target - BitVec.ofNat 16 e) e b) :
    firstLanding v readByte target n d = none := by
  induction n generalizing d with
  | zero => rfl
  | succ n ih =>
    have hd : landsOn v readByte d d (target - BitVec.ofNat 16 d) = none :=
      Option.eq_none_iff_forall_ne_some.2 fun b hb => h d le_rfl (by omega) b (landsOn_iff.1 hb)
    unfold firstLanding
    rw [hd]
    exact ih fun e he hlt => h e (by omega) (by omega)

/-- The smallest landing distance among the next `n` is the one found. -/
theorem firstLanding_eq_some {n d e : Nat} {a : Addr} (hde : d ≤ e) (hen : e < d + n)
    (hmin : ∀ f b, d ≤ f → f < e → ¬ ForwardLands v readByte (target - BitVec.ofNat 16 f) f b)
    (h : ForwardLands v readByte (target - BitVec.ofNat 16 e) e a) :
    firstLanding v readByte target n d = some a := by
  induction n generalizing d with
  | zero => omega
  | succ n ih =>
    unfold firstLanding
    rcases Nat.eq_or_lt_of_le hde with rfl | hlt
    · rw [landsOn_iff.2 h]
    · have hd : landsOn v readByte d d (target - BitVec.ofNat 16 d) = none :=
        Option.eq_none_iff_forall_ne_some.2 fun b hb => hmin d b le_rfl hlt (landsOn_iff.1 hb)
      rw [hd]
      exact ih hlt (by omega) fun f b hf => hmin f b (by omega)

end Stream

end Machine

/-- Settles O54: the search tries the distances in order, each by the stream of lines from its address. -/
theorem backwardResynchronisation : Obligations.BackwardResynchronisation := by
  unfold Obligations.BackwardResynchronisation
  refine ⟨fun v readByte window target => ?_, fun _ _ => rfl, fun v readByte a =>
    ⟨fun i hw hb => decodeOne_of_encode hw hb, fun op hop hi => decodeOne_of_invalid hop hi⟩⟩
  refine ⟨fun d a h1 hd hmin hl => ?_, fun hn => ?_, fun d a => landsOn_iff, fun d a hl => ?_⟩
  · unfold previousInstr
    rw [firstLanding_eq_some h1 (by omega) (fun e b => hmin e b) hl]
    rfl
  · unfold previousInstr
    rw [firstLanding_eq_none fun e he hlt b => hn e b he (by omega)]
    rfl
  · obtain ⟨l, i, hdec, hi, hend⟩ := forwardLands_ends hl
    exact ⟨l, i, hdec, hi, by rw [hend, BitVec.sub_add_cancel]⟩

end Sys2Proof
end

section
/-! SUPPORT. A reset and an init read forwards: the two vector reads a reset is made of, memory after the chunks of a
configuration, and the init command between ticks. -/

namespace Sys2Proof

open Machine

namespace Machine

/-! ### The reset sequence (R520 to R523) -/

/-- The machine whose bus reads the reset vector: the defaults loaded where the reset is cold, the run state cleared. -/
def State.resetBase (cold : Bool) (s : State) : State := (if cold then s.loadDefaults else s).clearRun

/-- The machine a reset ends in, from the vector's two bytes and the state their reads left. -/
def State.resetTo (l h : Byte) (w : State) : State :=
  ({ w.setPc (word16 h l) with ctrl := .paused none } : State).publish

theorem State.resetTo_eq (l h : Byte) (w : State) :
    w.resetTo l h =
      { w with
        pc := word16 h l, ctrl := .paused none
        channel := { a := w.a, x := w.x, y := w.y, sp := w.sp, p := pbyte w.p true, pcLo := l, pcHi := h } } := by
  simp [State.resetTo, State.publish, State.setPc]

/-- The two bus reads of the reset vector, from the machine a reset reads it with. -/
def VectorReads (s : State) (l h : Byte) (w : State) : Prop :=
  ∃ u, busRead resetVector s = .done l u ∧ busRead (resetVector + 1) u = .done h w

theorem VectorReads.eq {s w : State} {l h : Byte} (hr : VectorReads s l h w) : w = { s with sw := w.sw } := by
  obtain ⟨u, hl, hh⟩ := hr
  rw [(busRead_done hh).2, (busRead_done hl).2]

theorem vectorReads_complete {s : State} (hm : s.cfg.mapsInRange) : ∃ l h w, VectorReads s l h w := by
  obtain ⟨u, hl, hu⟩ := busRead_completes hm resetVector
  have hmu : u.cfg.mapsInRange := by rw [hu]; exact hm
  obtain ⟨w, hh, -⟩ := busRead_completes hmu (resetVector + 1)
  exact ⟨_, _, w, u, hl, hh⟩

/-- A sequence of accesses answers a next state exactly where it completes. -/
theorem finish_eq_next {start : Addr} {x : Access Unit} {t : State} : finish start x = .next t ↔ x = .done () t := by
  cases x <;> simp [finish]

/-- A reset answers a next state exactly where both vector reads complete, and ends at the vector they give. -/
theorem reset_eq_next {cold : Bool} {s t : State} :
    reset cold s = .next t ↔ ∃ l h w, VectorReads (s.resetBase cold) l h w ∧ t = w.resetTo l h := by
  unfold reset resetSequence readResetVector
  rw [finish_eq_next, Access.bind_eq_done]
  simp only [Access.bind_eq_done]
  constructor
  · rintro ⟨target, v, ⟨l, u, hl, h, w, hh, hd⟩, ht⟩
    cases hd
    cases ht
    exact ⟨l, h, v, ⟨u, hl, hh⟩, rfl⟩
  · rintro ⟨l, h, w, ⟨u, hl, hh⟩, rfl⟩
    exact ⟨_, w, ⟨l, u, hl, h, w, hh, rfl⟩, rfl⟩

/-- A bus read depends on the configuration, memory and the switches alone. -/
theorem busRead_congr {a : Addr} {s s' t : State} {v : Byte} (hc : s'.cfg = s.cfg) (hm : s'.mem = s.mem)
    (hs : s'.sw = s.sw) (h : busRead a s = .done v t) : busRead a s' = .done v { s' with sw := t.sw } := by
  unfold busRead State.memByte State.phys at h ⊢
  rw [hc, hm, hs]
  simp only at h ⊢
  split at h <;> cases h
  next hp => rw [if_pos hp]

/-- So do the two reads of the reset vector. -/
theorem VectorReads.congr {s s' w : State} {l h : Byte} (hr : VectorReads s l h w) (hc : s'.cfg = s.cfg)
    (hm : s'.mem = s.mem) (hs : s'.sw = s.sw) : VectorReads s' l h { s' with sw := w.sw } := by
  obtain ⟨u, hl, hh⟩ := hr
  have hu := (busRead_done hl).2
  refine ⟨_, busRead_congr hc hm hs hl, busRead_congr (s := u) ?_ ?_ rfl hh⟩ <;> rw [hu]
  · exact hc
  · exact hm

/-! ### Memory after the chunks (R525) -/

/-- After a run of stores, an address reads as its byte of the run, and as before outside the run. -/
theorem Memory.read_writeAll {fill : Byte} {m : List Host.Cell} (hw : Memory.wf fill m) (p q : Nat) (bs : List Byte) :
    Memory.read fill (Memory.writeAll fill m p bs) q =
      if p ≤ q then (bs[q - p]?).getD (Memory.read fill m q) else Memory.read fill m q := by
  induction bs generalizing m p with
  | nil => simp [Memory.writeAll]
  | cons b bs ih =>
    rw [Memory.writeAll, ih (Memory.write_wf hw p b), Memory.read_write hw.1]
    rcases Nat.lt_trichotomy q p with hlt | rfl | hgt
    · rw [if_neg (by omega), if_neg (by omega), if_neg (by omega)]
    · simp
    · obtain ⟨k, rfl⟩ : ∃ k, q = p + 1 + k := ⟨q - (p + 1), by omega⟩
      rw [if_pos (by omega), if_neg (by omega), if_pos (by omega), show p + 1 + k - p = k + 1 by omega,
        Nat.add_sub_cancel_left, List.getElem?_cons_succ]

/-- A chunk that no list of bytes makes acceptable is placed nowhere. -/
theorem placeChunk_eq_none {cfg : Config} {c : Chunk} (h : ∀ bytes, ¬ c.accepted cfg bytes) :
    placeChunk cfg c = none :=
  Option.eq_none_iff_forall_ne_some.2 fun r hr => h r.2 ((placeChunk_iff cfg c r.1 r.2).1 hr).2

/-- One rejected chunk rejects the list. -/
theorem loadChunks_eq_none {cfg : Config} {c : Chunk} {cs : List Chunk} {m : List Host.Cell} (hc : c ∈ cs)
    (h : ∀ bytes, ¬ c.accepted cfg bytes) : loadChunks cfg cs m = none := by
  induction cs generalizing m with
  | nil => cases hc
  | cons d cs ih =>
    unfold loadChunks
    rcases List.mem_cons.1 hc with rfl | hc
    · rw [placeChunk_eq_none h]
    · cases placeChunk cfg d with
      | none => rfl
      | some r => exact ih hc

/-- Accepted chunks are loaded, and memory is the bytes they store in order. -/
theorem loadChunks_eq_some {cfg : Config} {loads : List (Chunk × List Byte)} {m : List Host.Cell}
    (hw : Memory.wf cfg.initFill m) (ha : ∀ load ∈ loads, load.1.accepted cfg load.2) :
    ∃ m', loadChunks cfg (loads.map (·.1)) m = some m' ∧
      ∀ q, Memory.read cfg.initFill m' q = loadedByte cfg loads (Memory.read cfg.initFill m) q := by
  induction loads generalizing m with
  | nil => exact ⟨m, rfl, fun _ => rfl⟩
  | cons load loads ih =>
    obtain ⟨c, bytes⟩ := load
    have hplace := (placeChunk_iff cfg c _ bytes).2 ⟨rfl, ha _ List.mem_cons_self⟩
    obtain ⟨m', hload, hread⟩ :=
      ih (Memory.writeAll_wf hw (c.start cfg) bytes) fun load hl => ha load (List.mem_cons_of_mem _ hl)
    refine ⟨m', ?_, fun q => ?_⟩
    · rw [List.map_cons, loadChunks, hplace]
      exact hload
    · rw [hread, loadedByte]
      congr 1
      exact funext fun p => Memory.read_writeAll hw (c.start cfg) p bytes

/-! ### init (R486, R525) -/

/-- A rejected configuration changes nothing. -/
theorem init_of_rejected {cfg : Config} {s : State} (h : loadChunks cfg cfg.chunks [] = none) :
    init cfg s = .next s := by
  unfold init
  rw [h]

/-- A loaded configuration whose cold reset answers a next state leaves that state Stopped. -/
theorem init_of_loaded {cfg : Config} {s r : State} {m : List Host.Cell} (hl : loadChunks cfg cfg.chunks [] = some m)
    (hr : reset true (freshMachine cfg m s) = .next r) : init cfg s = .next { r with ctrl := .stopped } := by
  have hseq : resetSequence true (freshMachine cfg m s) = .done () r := finish_eq_next.1 hr
  unfold init
  rw [hl]
  simp only [hseq]
  rfl

/-- The machine the cold reset of an init reads its vector with. -/
def initBase (cfg : Config) (m : List Host.Cell) (s : State) : State := (freshMachine cfg m s).resetBase true

/-- What an init of a loaded configuration leaves: the cold reset's state, Stopped. -/
theorem init_loaded_next {cfg : Config} {s t : State} {m : List Host.Cell} (hl : loadChunks cfg cfg.chunks [] = some m)
    (h : init cfg s = .next t) :
    ∃ l g w, VectorReads (initBase cfg m s) l g w ∧ t = { w.resetTo l g with ctrl := .stopped } := by
  rcases init_next h with ⟨hn, -⟩ | ⟨m', r, hs, hr, rfl⟩
  · cases hl.symm.trans hn
  · cases hl.symm.trans hs
    obtain ⟨l, g, w, hreads, rfl⟩ := reset_eq_next.1 hr
    exact ⟨l, g, w, hreads, rfl⟩

/-- A command that waits for the end of a tick is carried out at once between ticks (R435). -/
theorem step_of_command_betweenTicks {s : State} {c : Command} {rest : List Arrival} (h : s.commands = .now c :: rest)
    (ht : s.inTick = false) : step s = perform c { s with commands := rest } := by
  unfold step hostedStep
  rw [h]
  simp only [ht, Bool.false_and, Bool.false_eq_true, if_false]

end Machine

/-- Settles O49: the two vector reads complete in range, and what they leave takes PC, `CTRL` and the channel. -/
theorem resetEffects : Obligations.ResetEffects := by
  unfold Obligations.ResetEffects
  intro s cold hm
  have hbase : (s.resetBase cold).cfg.mapsInRange := by cases cold <;> exact hm
  obtain ⟨l, h, w, hreads⟩ := vectorReads_complete hbase
  have hreset := reset_eq_next.2 ⟨l, h, w, hreads, rfl⟩
  obtain ⟨u, hl, hh⟩ := hreads
  exact ⟨l, u, h, w, hl, hh, hreset.trans (congrArg _ (w.resetTo_eq l h))⟩

/-- Settles O50: chunks load exactly where all are accepted; what follows is the cold reset of the machine they make. -/
theorem initLoadsMemory : Obligations.InitLoadsMemory := by
  unfold Obligations.InitLoadsMemory
  intro s cfg
  refine ⟨fun ⟨c, hc, hrej⟩ => init_of_rejected (loadChunks_eq_none hc hrej), fun loads hmap hacc => ?_,
    fun rest hc ht => step_of_command_betweenTicks hc ht⟩
  obtain ⟨m, hload, hread⟩ := loadChunks_eq_some (m := []) ⟨.nil, nofun⟩ hacc
  rw [hmap] at hload
  refine ⟨fun hm => ?_, fun t ht => ?_⟩
  · obtain ⟨l, h, w, hreads⟩ := vectorReads_complete (s := initBase cfg m s) hm
    exact ⟨_, init_of_loaded hload (reset_eq_next.2 ⟨l, h, w, hreads, rfl⟩)⟩
  · obtain ⟨l, h, w, hreads, rfl⟩ := init_loaded_next hload ht
    obtain ⟨sw, rfl⟩ : ∃ sw, w = { initBase cfg m s with sw := sw } := ⟨w.sw, hreads.eq⟩
    have hagain := hreads.congr rfl rfl rfl (s' :=
      { ({ initBase cfg m s with sw := sw } : State).resetTo l h with ctrl := .stopped, sw := cfg.switchDefault })
    obtain ⟨u, hl, hh⟩ := hagain
    exact ⟨rfl, rfl, rfl, rfl, rfl, hread, rfl, rfl, rfl, rfl, rfl, ⟨l, u, h, _, hl, hh, rfl, rfl⟩,
      rfl, rfl, rfl, rfl, rfl, rfl, rfl, rfl⟩

end Sys2Proof
end
